-- ==== Sys2Proof/Word.lean ====
section
/-! DEFINITION. The two word types of the block: 8-bit bytes and 16-bit words (00_scope.md R13: DATA_W, INDEX_W and
ADDR_W). What the spec computes on them is in Machine/Bits.lean. -/

namespace Sys2Proof

/-- A byte of the bus, an index register, a DATA field (R13). -/
abbrev Byte := BitVec 8

/-- A bus address, PC, a command word (R13, R81). -/
abbrev Word := BitVec 16

end Sys2Proof
end

