-- ==== Sys2Proof/Machine/Bits.lean ====
section
/-! DEFINITION. Width-fixed arithmetic and the named conversions (00_scope.md R14 to R16), byte order
(20_memory.md R63), the page functions (R67; 40_address_resolver.md R112). -/

namespace Sys2Proof.Machine

/-- `add16` (R15). -/
def add16 (a b : Word) : Word := a + b
/-- `sub16` (R15). -/
def sub16 (a b : Word) : Word := a - b
/-- `add8` (R15). -/
def add8 (a b : Byte) : Byte := a + b
/-- `zext_16` of a byte (R15). -/
def zext16 (b : Byte) : Word := b.zeroExtend 16

/-- `s8`: the signed value of a byte, -128..+127 (R16). -/
def s8 (b : Byte) : Int := if b.toNat < 0x80 then (b.toNat : Int) else (b.toNat : Int) - 256
/-- `sext_16(b)`: the 16-bit pattern of `s8(b)` mod 2^16 (R16). -/
def sext16 (b : Byte) : Word := BitVec.ofInt 16 (s8 b)
/-- `s4`: the signed value of a nibble, -8..+7 (R16). -/
def s4 (n : BitVec 4) : Int := if n.toNat < 8 then (n.toNat : Int) else (n.toNat : Int) - 16

/-- The word of two bytes, the first read being the low byte: `v = hi : lo` (R63). -/
def littleEndian (lo hi : Byte) : Word := hi ++ lo

/-- `next_in_page`: the successor of a pointer within its page (R67). -/
def nextInPage (p : Word) : Word := (p &&& 0xFF00#16) ||| (add16 p 1 &&& 0x00FF#16)

end Sys2Proof.Machine
end

