-- ==== Sys2Proof/Syntax.lean ====
section
/-! DEFINITION. The instructions of the block, one constructor for each of the 56 rows of spec/opcode_table.json, and the
data that pass between the host and the block: addressing modes, counter objects, command results, host inputs, events. -/

namespace Sys2Proof

/-- The thirteen addressing modes, in MODE order 0x0..0xC (00_scope.md R3, 30_encoding.md R84). The None sentinel and
MODE 0xE and 0xF are no mode: a word that names one decodes to a fault (R128, R129, R114). -/
inductive AddrMode where
  | immediate | absolute | implied | accumulator | absoluteX | absoluteY | zeroPage | zeroPageX | zeroPageY
  | indirect | indexedIndirect | indirectIndexed | relative
  deriving DecidableEq, Repr

/-- The five counter objects, in OBJ order 0..4 (10_state.md R43, 30_encoding.md R86). -/
inductive Obj where
  | p0 | p1 | m0 | m1 | bl
  deriving DecidableEq, Repr

/-- One thing of a kind for each counter object (10_state.md R43). -/
structure PerObj (α : Type) where
  p0 : α
  p1 : α
  m0 : α
  m1 : α
  bl : α
  deriving DecidableEq, Repr

/-- The command words of the opcode table (30_encoding.md R80 to R87, R93). `v` is DATA of SET_VALUE and `hm` is DATA of
START_HMOVE (R87); every other command has no operand inside its word. -/
inductive Instr where
  | resolveImm  -- RESOLVE IMM, R115: Immediate
  | resolveAbs  -- RESOLVE ABS, R116: Absolute
  | resolveImp  -- RESOLVE IMP, R117: Implied
  | resolveAcc  -- RESOLVE ACC, R118: Accumulator
  | resolveAbx  -- RESOLVE ABX, R119: AbsoluteX
  | resolveAby  -- RESOLVE ABY, R120: AbsoluteY
  | resolveZp  -- RESOLVE ZP, R121: ZeroPage
  | resolveZpx  -- RESOLVE ZPX, R122: ZeroPageX
  | resolveZpy  -- RESOLVE ZPY, R123: ZeroPageY
  | resolveInd  -- RESOLVE IND, R124: Indirect
  | resolveIzx  -- RESOLVE IZX, R125: IndexedIndirect
  | resolveIzy  -- RESOLVE IZY, R126: IndirectIndexed
  | resolveRel  -- RESOLVE REL, R127: Relative
  | nbytesImm  -- NBYTES IMM, R114
  | nbytesAbs  -- NBYTES ABS, R114
  | nbytesImp  -- NBYTES IMP, R114
  | nbytesAcc  -- NBYTES ACC, R114
  | nbytesAbx  -- NBYTES ABX, R114
  | nbytesAby  -- NBYTES ABY, R114
  | nbytesZp  -- NBYTES ZP, R114
  | nbytesZpx  -- NBYTES ZPX, R114
  | nbytesZpy  -- NBYTES ZPY, R114
  | nbytesInd  -- NBYTES IND, R114
  | nbytesIzx  -- NBYTES IZX, R114
  | nbytesIzy  -- NBYTES IZY, R114
  | nbytesRel  -- NBYTES REL, R114
  | resetP0  -- R152
  | resetP1  -- R152
  | resetM0  -- R152
  | resetM1  -- R152
  | resetBl  -- R152
  | valueP0  -- R153
  | valueP1  -- R153
  | valueM0  -- R153
  | valueM1  -- R153
  | valueBl  -- R153
  | setvP0 (v : Byte)  -- R154
  | setvP1 (v : Byte)  -- R154
  | setvM0 (v : Byte)  -- R154
  | setvM1 (v : Byte)  -- R154
  | setvBl (v : Byte)  -- R154
  | clockP0  -- R155
  | clockP1  -- R155
  | clockM0  -- R155
  | clockM1  -- R155
  | clockBl  -- R155
  | hmstartP0 (hm : Byte)  -- R156
  | hmstartP1 (hm : Byte)  -- R156
  | hmstartM0 (hm : Byte)  -- R156
  | hmstartM1 (hm : Byte)  -- R156
  | hmstartBl (hm : Byte)  -- R156
  | hmapplyP0  -- R157
  | hmapplyP1  -- R157
  | hmapplyM0  -- R157
  | hmapplyM1  -- R157
  | hmapplyBl  -- R157
  deriving DecidableEq, Repr

/-- The fault kinds of the block (60_exceptions.md R190). Raising one is fault entry (R196), a next state of the machine. -/
inductive Cause where
  | invalidAddressingMode
  | illegalCommand
  | counterDomain
  deriving DecidableEq, Repr

/-- The outputs of a command that succeeds (00_scope.md R12, 10_state.md R34). -/
inductive Output where
  /-- RESET, SET_VALUE, START_HMOVE: nothing. -/
  | nothing
  /-- RESOLVE: the effective address EA and EXTRA (R110). -/
  | resolved (ea : Word) (extra : Bool)
  /-- NBYTES: LEN, 2 bits (R114). -/
  | length (len : BitVec 2)
  /-- VALUE: POS (R153). -/
  | position (pos : Byte)
  /-- CLOCK: TRANS (R155). -/
  | transition (trans : Bool)
  /-- APPLY_HMOVE: CONT (R157). -/
  | motion (cont : Bool)
  deriving DecidableEq, Repr

/-- What a command returns to the host: Ok(outputs) or Err(fault) (00_scope.md R18). -/
inductive Result where
  | ok (o : Output)
  | err (c : Cause)
  deriving DecidableEq, Repr

/-- PERIOD[o] and RESET_VALUE[o] of one object (00_scope.md R13). -/
structure ObjParams where
  period     : Byte
  resetValue : Byte
  deriving DecidableEq, Repr

/-- What the host can do to the block and to its own side, one at a time (00_scope.md R11, R12). -/
inductive HostInput where
  /-- The host issues a command word (R9). -/
  | command (w : Word)
  /-- The host invokes APPLY_HMOVE(o) as one of a motion under its HMOVE_PROTOCOL, which says what it issues on the answer
  (R13; 41_position_counter.md R158; log 19). -/
  | motion (o : Obj)
  /-- The host asserts RST and supplies PERIOD and RESET_VALUE (R12; 70_reset_and_hazards.md R220). -/
  | rst (params : PerObj ObjParams)
  /-- The fetch stage writes PC (10_state.md R33; R225). -/
  | writePC (v : Word)
  /-- The host writes X (R30, R224). -/
  | writeX (v : Byte)
  /-- The host writes Y (R30, R224). -/
  | writeY (v : Byte)
  /-- The host changes the memory behind its bus (20_memory.md R73). -/
  | writeMem (a : Word) (b : Byte)
  deriving DecidableEq, Repr

/-- One event of a run, in the order of 20_memory.md R62 and R70. -/
inductive Event where
  /-- The host's input was taken. -/
  | input (i : HostInput)
  /-- The block read the bus at address `a` and the host answered `b` (R62). -/
  | read (a : Word) (b : Byte)
  /-- A command returned its result to the host (R18). -/
  | returned (r : Result)
  deriving DecidableEq, Repr

end Sys2Proof
end

