-- ==== Sys2Proof/Config.lean ====
section
/-! DEFINITION. What is fixed for the machine and what the spec leaves open (00_scope.md R13): the bus oracle and the
parameters PERIOD[o], RESET_VALUE[o] and HMOVE_PROTOCOL. The constants without a body are free values: no proof can learn what they are. -/

namespace Sys2Proof

/-- BusRead, the oracle of the host (R13, D24): the byte it answers to a read of address `a` after the events so far.
A FREE VALUE (log 6): "a draw that may depend on every earlier event" (20_memory.md R62). -/
opaque Config.busRead : List Event → Word → Byte

/-- HMOVE_PROTOCOL, the host's policy of R13 and D17: "how many extra CLOCK commands the host issues for each APPLY_HMOVE
answer, and when it stops". Each part may depend on the events so far (the answer among them), the object, and CONT. -/
structure HmoveProtocol where
  /-- How many CLOCK(o) the host issues on the answer. -/
  extraClocks : List Event → Obj → Bool → Nat
  /-- Whether the host then stops invoking APPLY_HMOVE(o). -/
  stops       : List Event → Obj → Bool → Bool

/-- The extra CLOCKs of this host's protocol. A FREE VALUE (log 19). -/
opaque Config.hmoveExtraClocks : List Event → Obj → Bool → Nat

/-- When this host's protocol stops. A FREE VALUE (log 19). -/
opaque Config.hmoveStops : List Event → Obj → Bool → Bool

/-- HMOVE_PROTOCOL of this host (R13): any policy. -/
def Config.hmoveProtocol : HmoveProtocol where
  extraClocks := Config.hmoveExtraClocks
  stops       := Config.hmoveStops

/-- The free choice behind RESET_VALUE[o]. A FREE VALUE (log 5). -/
opaque Config.resetValueChoice : Obj → Nat

/-- The free choice behind PERIOD[o]. A FREE VALUE (log 5). -/
opaque Config.periodChoice : Obj → Nat

/-- RESET_VALUE[o]: any value of its domain 0..39 (R13). -/
def Config.resetValue (o : Obj) : Nat := Config.resetValueChoice o % 40

/-- PERIOD[o]: any value of 1..255 above RESET_VALUE[o] (R13; 41_position_counter.md R151). -/
def Config.period (o : Obj) : Nat :=
  Config.resetValue o + Config.periodChoice o % (255 - Config.resetValue o) + 1

/-- The parameters of one object as the host supplies them at RST. -/
def Config.objParams (o : Obj) : ObjParams where
  period     := BitVec.ofNat 8 (Config.period o)
  resetValue := BitVec.ofNat 8 (Config.resetValue o)

/-- PERIOD and RESET_VALUE of this block (10_state.md R47): configuration, not state. -/
def Config.params : PerObj ObjParams where
  p0 := Config.objParams .p0
  p1 := Config.objParams .p1
  m0 := Config.objParams .m0
  m1 := Config.objParams .m1
  bl := Config.objParams .bl

end Sys2Proof
end

