-- ==== Sys2Proof/WellFormed.lean ====
section
/-! DEFINITION. The checks on what the host supplies: the construction domain of PERIOD and RESET_VALUE
(41_position_counter.md R151, D14). Every term of Instr is well-formed as it stands: MODE, OP and OBJ are constructors and
DATA is a byte, all of whose values are encodable (30_encoding.md R87). -/

namespace Sys2Proof

/-- `1 <= per <= 255`; the upper bound is the byte's own. -/
def ObjParams.periodOk (p : ObjParams) : Bool := decide (1 ≤ p.period.toNat)

/-- `rv <= 39`. -/
def ObjParams.resetValueOk (p : ObjParams) : Bool := decide (p.resetValue.toNat ≤ 39)

/-- `rv < per`. -/
def ObjParams.resetBelowPeriod (p : ObjParams) : Bool := decide (p.resetValue.toNat < p.period.toNat)

/-- The requirement of NEW on one object's parameters (R151). -/
def ObjParams.wf (p : ObjParams) : Bool := p.periodOk && p.resetValueOk && p.resetBelowPeriod

/-- The requirement of NEW on every object (R151, R220). -/
def PerObj.paramsWf (ps : PerObj ObjParams) : Bool := ps.p0.wf && ps.p1.wf && ps.m0.wf && ps.m1.wf && ps.bl.wf

end Sys2Proof
end

