-- ==== Sys2Proof/Machine/CounterState.lean ====
section
/-! DEFINITION. One PositionCounter instance (10_state.md R37), its construction NEW (41_position_counter.md R151), and
access to one object's part of a family of five (R43). -/

namespace Sys2Proof.Machine

/-- The fields of a counter instance (R37). -/
structure Counter where
  period        : Byte
  resetValue    : Byte
  internalValue : Word
  lastValue     : Byte
  clocksToAdd   : Byte
  deriving DecidableEq, Repr

/-- NEW (R151): what construction writes. Its precondition is `ObjParams.wf`. -/
def Counter.new (p : ObjParams) : Counter where
  period        := p.period
  resetValue    := p.resetValue
  internalValue := BitVec.ofNat 16 (p.resetValue.toNat * 4)
  lastValue     := p.resetValue
  clocksToAdd   := 0x00#8

/-- NEW for each of the five objects (70_reset_and_hazards.md R220). -/
def newCounters (ps : PerObj ObjParams) : PerObj Counter where
  p0 := Counter.new ps.p0
  p1 := Counter.new ps.p1
  m0 := Counter.new ps.m0
  m1 := Counter.new ps.m1
  bl := Counter.new ps.bl

/-- The part of object `o`. -/
def perObjGet {α : Type} (t : PerObj α) (o : Obj) : α :=
  match o with
  | .p0 => t.p0
  | .p1 => t.p1
  | .m0 => t.m0
  | .m1 => t.m1
  | .bl => t.bl

/-- The family with the part of object `o` replaced. -/
def perObjSet {α : Type} (t : PerObj α) (o : Obj) (x : α) : PerObj α :=
  match o with
  | .p0 => { t with p0 := x }
  | .p1 => { t with p1 := x }
  | .m0 => { t with m0 := x }
  | .m1 => { t with m1 := x }
  | .bl => { t with bl := x }

end Sys2Proof.Machine
end

