-- ==== Sys2Proof/Machine/Flags.lean ====
section
/-! DEFINITION. The block's three one-bit outputs (10_state.md R34): EXTRA, TRANS and CONT. There are no stored flags. -/

namespace Sys2Proof.Machine

/-- `page_crossed`, the EXTRA of an indexed resolution (40_address_resolver.md R112). -/
def pageCrossed (base ea : Word) : Bool := (base &&& 0xFF00#16) != (ea &&& 0xFF00#16)

/-- TRANS: the new position is not the last one (41_position_counter.md R155). -/
def transitioned (pos last : Byte) : Bool := pos != last

/-- CONT: the count is still not 0 (R157). -/
def stillMoving (count : Byte) : Bool := count != 0x00#8

end Sys2Proof.Machine
end

