-- ==== Sys2Proof/Decode.lean ====
section
/-! DEFINITION. The decoder of command words (30_encoding.md R81 to R87, R92 to R94), total on all 65536 words, and the
encoder written from the same tables. Every command is one 16-bit word (R81). -/

namespace Sys2Proof

/-- Bit 15, U: 0 the resolver, 1 the counter unit (R81). -/
def fieldU (w : Word) : BitVec 1 := w.extractLsb' 15 1
/-- Bit 14, Q of Format A (R82). -/
def fieldQ (w : Word) : BitVec 1 := w.extractLsb' 14 1
/-- Bits 13:4, reserved in Format A (R82). -/
def fieldReservedA (w : Word) : BitVec 10 := w.extractLsb' 4 10
/-- Bits 3:0, MODE of Format A (R82). -/
def fieldMode (w : Word) : BitVec 4 := w.extractLsb' 0 4
/-- Bits 14:12, OP of Format B (R83). -/
def fieldOp (w : Word) : BitVec 3 := w.extractLsb' 12 3
/-- Bit 11, reserved in Format B (R83). -/
def fieldReservedB (w : Word) : BitVec 1 := w.extractLsb' 11 1
/-- Bits 10:8, OBJ of Format B (R83). -/
def fieldObj (w : Word) : BitVec 3 := w.extractLsb' 8 3
/-- Bits 7:0, DATA of Format B (R83). -/
def fieldData (w : Word) : Byte := w.extractLsb' 0 8

/-- MODE to addressing mode (R84); none for 0xD (the sentinel), 0xE and 0xF. -/
def modeOfCode (m : BitVec 4) : Option AddrMode :=
  match m with
  | 0x0#4 => some .immediate
  | 0x1#4 => some .absolute
  | 0x2#4 => some .implied
  | 0x3#4 => some .accumulator
  | 0x4#4 => some .absoluteX
  | 0x5#4 => some .absoluteY
  | 0x6#4 => some .zeroPage
  | 0x7#4 => some .zeroPageX
  | 0x8#4 => some .zeroPageY
  | 0x9#4 => some .indirect
  | 0xA#4 => some .indexedIndirect
  | 0xB#4 => some .indirectIndexed
  | 0xC#4 => some .relative
  | _ => none

/-- OBJ to object (R86); none for the reserved 5, 6 and 7. -/
def objOfCode (o : BitVec 3) : Option Obj :=
  match o with
  | 0#3 => some .p0
  | 1#3 => some .p1
  | 2#3 => some .m0
  | 3#3 => some .m1
  | 4#3 => some .bl
  | _ => none

/-- RESOLVE of each mode (R95). -/
def Instr.resolveOf (m : AddrMode) : Instr :=
  match m with
  | .immediate => .resolveImm
  | .absolute => .resolveAbs
  | .implied => .resolveImp
  | .accumulator => .resolveAcc
  | .absoluteX => .resolveAbx
  | .absoluteY => .resolveAby
  | .zeroPage => .resolveZp
  | .zeroPageX => .resolveZpx
  | .zeroPageY => .resolveZpy
  | .indirect => .resolveInd
  | .indexedIndirect => .resolveIzx
  | .indirectIndexed => .resolveIzy
  | .relative => .resolveRel

/-- NBYTES of each mode (R95). -/
def Instr.nbytesOf (m : AddrMode) : Instr :=
  match m with
  | .immediate => .nbytesImm
  | .absolute => .nbytesAbs
  | .implied => .nbytesImp
  | .accumulator => .nbytesAcc
  | .absoluteX => .nbytesAbx
  | .absoluteY => .nbytesAby
  | .zeroPage => .nbytesZp
  | .zeroPageX => .nbytesZpx
  | .zeroPageY => .nbytesZpy
  | .indirect => .nbytesInd
  | .indexedIndirect => .nbytesIzx
  | .indirectIndexed => .nbytesIzy
  | .relative => .nbytesRel

/-- RESET on each object (R95). -/
def Instr.resetOn (o : Obj) : Instr :=
  match o with
  | .p0 => .resetP0
  | .p1 => .resetP1
  | .m0 => .resetM0
  | .m1 => .resetM1
  | .bl => .resetBl

/-- VALUE on each object (R95). -/
def Instr.valueOn (o : Obj) : Instr :=
  match o with
  | .p0 => .valueP0
  | .p1 => .valueP1
  | .m0 => .valueM0
  | .m1 => .valueM1
  | .bl => .valueBl

/-- SETV on each object (R95). -/
def Instr.setvOn (o : Obj) (v : Byte) : Instr :=
  match o with
  | .p0 => .setvP0 v
  | .p1 => .setvP1 v
  | .m0 => .setvM0 v
  | .m1 => .setvM1 v
  | .bl => .setvBl v

/-- CLOCK on each object (R95). -/
def Instr.clockOn (o : Obj) : Instr :=
  match o with
  | .p0 => .clockP0
  | .p1 => .clockP1
  | .m0 => .clockM0
  | .m1 => .clockM1
  | .bl => .clockBl

/-- HMSTART on each object (R95). -/
def Instr.hmstartOn (o : Obj) (hm : Byte) : Instr :=
  match o with
  | .p0 => .hmstartP0 hm
  | .p1 => .hmstartP1 hm
  | .m0 => .hmstartM0 hm
  | .m1 => .hmstartM1 hm
  | .bl => .hmstartBl hm

/-- HMAPPLY on each object (R95). -/
def Instr.hmapplyOn (o : Obj) : Instr :=
  match o with
  | .p0 => .hmapplyP0
  | .p1 => .hmapplyP1
  | .m0 => .hmapplyM0
  | .m1 => .hmapplyM1
  | .bl => .hmapplyBl

/-- A command without an operand needs DATA = 0x00 (R87). -/
def noData (i : Instr) (d : Byte) : Except Cause Instr :=
  if d = 0x00#8 then .ok i else .error .illegalCommand

/-- The counter operation of an OP value (R85); OP 6 and 7 are reserved (R92). -/
def decodeOp (op : BitVec 3) (o : Obj) (d : Byte) : Except Cause Instr :=
  match op with
  | 0#3 => noData (.resetOn o) d
  | 1#3 => noData (.valueOn o) d
  | 2#3 => .ok (.setvOn o d)
  | 3#3 => noData (.clockOn o) d
  | 4#3 => .ok (.hmstartOn o d)
  | 5#3 => noData (.hmapplyOn o) d
  | _ => .error .illegalCommand

/-- Format A (R82, R94): IllegalCommand for a nonzero reserved field before the mode is looked at (R195). -/
def decodeA (w : Word) : Except Cause Instr :=
  if fieldReservedA w = 0#10 then
    match modeOfCode (fieldMode w) with
    | some m => .ok (if fieldQ w = 0#1 then .resolveOf m else .nbytesOf m)
    | none => .error .invalidAddressingMode
  else .error .illegalCommand

/-- Format B (R83, R94). -/
def decodeB (w : Word) : Except Cause Instr :=
  if fieldReservedB w = 0#1 then
    match objOfCode (fieldObj w) with
    | some o => decodeOp (fieldOp w) o (fieldData w)
    | none => .error .illegalCommand
  else .error .illegalCommand

/-- The decoder (R94): every word is one command or one fault (R93). -/
def decode (w : Word) : Except Cause Instr :=
  if fieldU w = 0#1 then decodeA w else decodeB w

/-- The MODE field of each mode (R84). -/
def modeCode (m : AddrMode) : BitVec 4 :=
  match m with
  | .immediate => 0x0#4
  | .absolute => 0x1#4
  | .implied => 0x2#4
  | .accumulator => 0x3#4
  | .absoluteX => 0x4#4
  | .absoluteY => 0x5#4
  | .zeroPage => 0x6#4
  | .zeroPageX => 0x7#4
  | .zeroPageY => 0x8#4
  | .indirect => 0x9#4
  | .indexedIndirect => 0xA#4
  | .indirectIndexed => 0xB#4
  | .relative => 0xC#4

/-- The OBJ field of each object (R86). -/
def objCode (o : Obj) : BitVec 3 :=
  match o with
  | .p0 => 0#3
  | .p1 => 1#3
  | .m0 => 2#3
  | .m1 => 3#3
  | .bl => 4#3

/-- Format A, `0q0000000000mmmm` (R82). -/
def formatA (q : BitVec 1) (m : BitVec 4) : Word := 0#1 ++ q ++ 0#10 ++ m

/-- Format B, `1ppp0oooDDDDDDDD` (R83). -/
def formatB (op : BitVec 3) (o : BitVec 3) (d : Byte) : Word := 1#1 ++ op ++ 0#1 ++ o ++ d

/-- The command word of each instruction (R82 to R87). -/
def encode (i : Instr) : Word :=
  match i with
  | .resolveImm => formatA 0#1 (modeCode .immediate)
  | .resolveAbs => formatA 0#1 (modeCode .absolute)
  | .resolveImp => formatA 0#1 (modeCode .implied)
  | .resolveAcc => formatA 0#1 (modeCode .accumulator)
  | .resolveAbx => formatA 0#1 (modeCode .absoluteX)
  | .resolveAby => formatA 0#1 (modeCode .absoluteY)
  | .resolveZp => formatA 0#1 (modeCode .zeroPage)
  | .resolveZpx => formatA 0#1 (modeCode .zeroPageX)
  | .resolveZpy => formatA 0#1 (modeCode .zeroPageY)
  | .resolveInd => formatA 0#1 (modeCode .indirect)
  | .resolveIzx => formatA 0#1 (modeCode .indexedIndirect)
  | .resolveIzy => formatA 0#1 (modeCode .indirectIndexed)
  | .resolveRel => formatA 0#1 (modeCode .relative)
  | .nbytesImm => formatA 1#1 (modeCode .immediate)
  | .nbytesAbs => formatA 1#1 (modeCode .absolute)
  | .nbytesImp => formatA 1#1 (modeCode .implied)
  | .nbytesAcc => formatA 1#1 (modeCode .accumulator)
  | .nbytesAbx => formatA 1#1 (modeCode .absoluteX)
  | .nbytesAby => formatA 1#1 (modeCode .absoluteY)
  | .nbytesZp => formatA 1#1 (modeCode .zeroPage)
  | .nbytesZpx => formatA 1#1 (modeCode .zeroPageX)
  | .nbytesZpy => formatA 1#1 (modeCode .zeroPageY)
  | .nbytesInd => formatA 1#1 (modeCode .indirect)
  | .nbytesIzx => formatA 1#1 (modeCode .indexedIndirect)
  | .nbytesIzy => formatA 1#1 (modeCode .indirectIndexed)
  | .nbytesRel => formatA 1#1 (modeCode .relative)
  | .resetP0 => formatB 0#3 (objCode .p0) 0x00#8
  | .resetP1 => formatB 0#3 (objCode .p1) 0x00#8
  | .resetM0 => formatB 0#3 (objCode .m0) 0x00#8
  | .resetM1 => formatB 0#3 (objCode .m1) 0x00#8
  | .resetBl => formatB 0#3 (objCode .bl) 0x00#8
  | .valueP0 => formatB 1#3 (objCode .p0) 0x00#8
  | .valueP1 => formatB 1#3 (objCode .p1) 0x00#8
  | .valueM0 => formatB 1#3 (objCode .m0) 0x00#8
  | .valueM1 => formatB 1#3 (objCode .m1) 0x00#8
  | .valueBl => formatB 1#3 (objCode .bl) 0x00#8
  | .setvP0 v => formatB 2#3 (objCode .p0) v
  | .setvP1 v => formatB 2#3 (objCode .p1) v
  | .setvM0 v => formatB 2#3 (objCode .m0) v
  | .setvM1 v => formatB 2#3 (objCode .m1) v
  | .setvBl v => formatB 2#3 (objCode .bl) v
  | .clockP0 => formatB 3#3 (objCode .p0) 0x00#8
  | .clockP1 => formatB 3#3 (objCode .p1) 0x00#8
  | .clockM0 => formatB 3#3 (objCode .m0) 0x00#8
  | .clockM1 => formatB 3#3 (objCode .m1) 0x00#8
  | .clockBl => formatB 3#3 (objCode .bl) 0x00#8
  | .hmstartP0 hm => formatB 4#3 (objCode .p0) hm
  | .hmstartP1 hm => formatB 4#3 (objCode .p1) hm
  | .hmstartM0 hm => formatB 4#3 (objCode .m0) hm
  | .hmstartM1 hm => formatB 4#3 (objCode .m1) hm
  | .hmstartBl hm => formatB 4#3 (objCode .bl) hm
  | .hmapplyP0 => formatB 5#3 (objCode .p0) 0x00#8
  | .hmapplyP1 => formatB 5#3 (objCode .p1) 0x00#8
  | .hmapplyM0 => formatB 5#3 (objCode .m0) 0x00#8
  | .hmapplyM1 => formatB 5#3 (objCode .m1) 0x00#8
  | .hmapplyBl => formatB 5#3 (objCode .bl) 0x00#8

/-- The mode a RESOLVE command resolves; none for every other command. -/
def Instr.resolveMode (i : Instr) : Option AddrMode :=
  match i with
  | .resolveImm => some .immediate
  | .resolveAbs => some .absolute
  | .resolveImp => some .implied
  | .resolveAcc => some .accumulator
  | .resolveAbx => some .absoluteX
  | .resolveAby => some .absoluteY
  | .resolveZp => some .zeroPage
  | .resolveZpx => some .zeroPageX
  | .resolveZpy => some .zeroPageY
  | .resolveInd => some .indirect
  | .resolveIzx => some .indexedIndirect
  | .resolveIzy => some .indirectIndexed
  | .resolveRel => some .relative
  | .nbytesImm => none
  | .nbytesAbs => none
  | .nbytesImp => none
  | .nbytesAcc => none
  | .nbytesAbx => none
  | .nbytesAby => none
  | .nbytesZp => none
  | .nbytesZpx => none
  | .nbytesZpy => none
  | .nbytesInd => none
  | .nbytesIzx => none
  | .nbytesIzy => none
  | .nbytesRel => none
  | .resetP0 => none
  | .resetP1 => none
  | .resetM0 => none
  | .resetM1 => none
  | .resetBl => none
  | .valueP0 => none
  | .valueP1 => none
  | .valueM0 => none
  | .valueM1 => none
  | .valueBl => none
  | .setvP0 _ => none
  | .setvP1 _ => none
  | .setvM0 _ => none
  | .setvM1 _ => none
  | .setvBl _ => none
  | .clockP0 => none
  | .clockP1 => none
  | .clockM0 => none
  | .clockM1 => none
  | .clockBl => none
  | .hmstartP0 _ => none
  | .hmstartP1 _ => none
  | .hmstartM0 _ => none
  | .hmstartM1 _ => none
  | .hmstartBl _ => none
  | .hmapplyP0 => none
  | .hmapplyP1 => none
  | .hmapplyM0 => none
  | .hmapplyM1 => none
  | .hmapplyBl => none

/-- The instruction the decoder reads from a table word of `nbits` bits, bit 0 the least significant: a command is one
16-bit word (R81), so a word that 16 bits do not hold is none. -/
def decodeTableWord (nbits w : Nat) : Option Instr :=
  if nbits ≤ 16 ∧ w < 65536 then (decode (BitVec.ofNat 16 w)).toOption else none

end Sys2Proof
end

