-- ==== Sys2Proof/Machine/Memory.lean ====
section
/-! DEFINITION. The memory image behind the bus (20_memory.md R60, R62, R73): the addresses whose answer is fixed, as a list
of cells in one canonical form. An address that is not listed has no byte of its own: the bus oracle answers it (log 6). -/

namespace Sys2Proof.Machine

/-- Every listed address is an address of the bus, above `lowest`, and the addresses strictly rise. -/
def Memory.risingFrom (lowest : Nat) (m : List Host.Cell) : Bool :=
  match m with
  | [] => true
  | (a, _) :: rest => decide (lowest ≤ a) && decide (a < 65536) && Memory.risingFrom (a + 1) rest

/-- The canonical form: strictly rising 16-bit addresses. No entry equals what an unlisted address reads as, since an
unlisted address reads as no fixed byte. -/
def Memory.wf (m : List Host.Cell) : Bool := Memory.risingFrom 0 m

/-- The byte the image lists at an address, if it lists one. -/
def Memory.lookup (m : List Host.Cell) (a : Nat) : Option Byte :=
  match m with
  | [] => none
  | (k, b) :: rest => if k = a then some b else Memory.lookup rest a

/-- The image with byte `b` at address `a`. -/
def Memory.write (m : List Host.Cell) (a : Nat) (b : Byte) : List Host.Cell :=
  match m with
  | [] => [(a, b)]
  | (k, c) :: rest =>
    if k < a then (k, c) :: Memory.write rest a b
    else if k = a then (a, b) :: rest
    else (a, b) :: (k, c) :: rest

end Sys2Proof.Machine
end

