-- ==== Sys2Proof/Machine/State.lean ====
section
/-! DEFINITION. The state of the machine (10_state.md), its state after reset, and the reasons a step can stop. -/

namespace Sys2Proof.Machine

/-- The host's ProcessorState as far as the resolver reads it (10_state.md R30), and whether the host has ever written each
register (70_reset_and_hazards.md R224, D25). The block never writes any of it. -/
structure Processor where
  pc        : Word
  x         : Byte
  y         : Byte
  pcWritten : Bool
  xWritten  : Bool
  yWritten  : Bool
  deriving DecidableEq, Repr

/-- Everything the spec gives the machine, with the host's side of it.
`processor`: the host's PC, X and Y. `counters`: the five instances (R37, R43). `fault` and `faultInfo`: FAULT and
FAULT_INFO (R44, R45). `memory`: the memory image (log 6). `inputs`: what the host does next, oldest first (log 1).
`trace`: the events so far, oldest first (20_memory.md R62; log 8). -/
structure State where
  processor : Processor
  counters  : PerObj Counter
  fault     : Byte
  faultInfo : Word
  memory    : List Host.Cell
  inputs    : List HostInput
  trace     : List Event
  deriving DecidableEq, Repr

/-- Why the machine stops. -/
inductive Fault where
  /-- Raised by a step that finds a command word while FAULT.CAUSE is not 0: it "has no step", and only RST leaves the halted
  state (60_exceptions.md R197). Safe: nothing is claimed past it. -/
  | halted
  /-- Raised by a step that finds a RESOLVE the host issued before it ever wrote PC, or the X or Y the mode reads. The spec asks
  for this fault: "A model must treat" such a RESOLVE "as having no meaning: a fault of the host, not a value"
  (70_reset_and_hazards.md R224 item 3; 92_eei_decisions.md D25; 93_implementation_defined.md item 10). It is no fault of a
  register read: `exec` of a RESOLVE reads PC, X and Y in every state, reset included. Safe: no value is made up. -/
  | processorStateUnset
  /-- Raised by a step when the host has issued nothing: the block takes no step of its own (00_scope.md R10). Safe. -/
  | awaitingHost
  deriving DecidableEq, Repr

/-- Why an input has no meaning. -/
inductive Refusal where
  /-- An instruction whose arm of `exec` has no meaning yet. Safe. -/
  | notModelled (mnemonic : String)
  /-- Raised by an RST whose PERIOD and RESET_VALUE break the domain of NEW: "the model refuses to construct it"
  (41_position_counter.md R151). Safe. -/
  | configurationRefused
  deriving DecidableEq, Repr

/-- The block right after RST with parameters `ps`, the host having done nothing yet (10_state.md R48;
70_reset_and_hazards.md R220). PC, X and Y are not the block's: 0 is the model's choice and no host has written them
(log 3, log 4). -/
def State.resetWith (ps : PerObj ObjParams) : State where
  processor := { pc := 0x0000#16, x := 0x00#8, y := 0x00#8, pcWritten := false, xWritten := false, yWritten := false }
  counters  := newCounters ps
  fault     := 0x00#8
  faultInfo := 0x0000#16
  memory    := []
  inputs    := []
  trace     := []

/-- The machine right after reset, PERIOD and RESET_VALUE being the configuration's (R47, R48). -/
def State.reset : State := State.resetWith Config.params

end Sys2Proof.Machine
end

