-- ==== Sys2Proof/Machine/Ops.lean ====
section
/-! DEFINITION. The named operations over registers, counters, memory and the fault registers, fault entry (the block's one
exception, 60_exceptions.md R196) and block reset (the only way out of it, R198, 70_reset_and_hazards.md R220). -/

namespace Sys2Proof.Machine

/-- PC as the resolver reads it (10_state.md R30). -/
def State.pc (s : State) : Word := s.processor.pc
/-- X as the resolver reads it (R30). -/
def State.x (s : State) : Byte := s.processor.x
/-- Y as the resolver reads it (R30). -/
def State.y (s : State) : Byte := s.processor.y

/-- `cnt[o]` (00_scope.md R17). -/
def State.cnt (s : State) (o : Obj) : Counter := perObjGet s.counters o
/-- `cnt[o] <- c` (R17). -/
def State.setCnt (s : State) (o : Obj) (c : Counter) : State := { s with counters := perObjSet s.counters o c }

/-- Append an event to the run's history (20_memory.md R62). -/
def State.record (s : State) (e : Event) : State := { s with trace := s.trace ++ [e] }

/-- A command ends and the host receives its result (00_scope.md R18). -/
def State.ret (s : State) (r : Result) : State := s.record (.returned r)

/-- The result the host received last. -/
def State.lastResult (s : State) : Option Result :=
  match s.trace.getLast? with
  | some (.returned r) => some r
  | _ => none

/-- FAULT.CAUSE, bits 1:0 (10_state.md R44). -/
def State.cause (s : State) : BitVec 2 := s.fault.extractLsb' 0 2

/-- FAULT as the host reads it: bits 7:2 always read 0 (R44). -/
def State.readFault (s : State) : Byte := s.cause.zeroExtend 8

/-- FAULT_INFO as the host reads it (R45). -/
def State.readFaultInfo (s : State) : Word := s.faultInfo

/-- The block is halted exactly when CAUSE is not 0 (R44). -/
def State.halted (s : State) : Bool := s.cause != 0#2

/-- The bus's answer to a read of `a` now: the image's byte where the image lists the address, else a draw of the oracle
(20_memory.md R60, R62; log 6). -/
def State.busAnswer (s : State) (a : Word) : Byte :=
  match Memory.lookup s.memory a.toNat with
  | some b => b
  | none => Config.busRead s.trace a

/-- `MemRead(a, 1)`: the byte, and the state with the read recorded (00_scope.md R17, 20_memory.md R62). -/
def memRead (a : Word) (s : State) : Byte × State :=
  (s.busAnswer a, s.record (.read a (s.busAnswer a)))

/-- The cause code of each fault kind (60_exceptions.md R190). -/
def causeCode (c : Cause) : BitVec 2 :=
  match c with
  | .invalidAddressingMode => 1#2
  | .illegalCommand => 2#2
  | .counterDomain => 3#2

/-- Fault entry (R196): FAULT.CAUSE and FAULT_INFO are set, Err goes to the host, and nothing else changes; the block is
halted from then on. No vector, no saved PC, no mode (R196, R198). -/
def enterFault (c : Cause) (w : Word) (s : State) : State :=
  { s with fault := (causeCode c).zeroExtend 8, faultInfo := w }.ret (.err c)

/-- RST (R220): NEW for every object, FAULT and FAULT_INFO cleared, no bus read. The host's own side (ProcessorState, memory,
what it does next) is not the block's and stays (log 11). -/
def blockReset (ps : PerObj ObjParams) (s : State) : State :=
  { s with counters := newCounters ps, fault := 0x00#8, faultInfo := 0x0000#16 }

end Sys2Proof.Machine
end

