-- ==== Sys2Proof/Machine/CounterCommands.lean ====
section
/-! DEFINITION. The six counter commands on each of the five instances (41_position_counter.md R150 to R157). What a command
does to one instance is said once, over `Counter`; a meaning is that, on its object. Sums and products are computed exactly and
narrowed to the field's width at the end (log 12). -/

namespace Sys2Proof.Machine

/-- The logical position, `internal_value div 4` (10_state.md R39). -/
def Counter.position (c : Counter) : Byte := BitVec.ofNat 8 (c.internalValue.toNat / 4)

/-- RESET: `internal_value <- reset_value * 4` (R152). -/
def Counter.reset (c : Counter) : Counter :=
  { c with internalValue := BitVec.ofNat 16 (c.resetValue.toNat * 4) }

/-- SET_VALUE within its domain: `internal_value <- v * 4` (R154). -/
def Counter.setValue (c : Counter) (v : Byte) : Counter :=
  { c with internalValue := BitVec.ofNat 16 (v.toNat * 4) }

/-- The sub-clock step of CLOCK: `(internal_value + 1) mod (period * 4)` (R155). -/
def Counter.tick (c : Counter) : Counter :=
  { c with internalValue := BitVec.ofNat 16 ((c.internalValue.toNat + 1) % (c.period.toNat * 4)) }

/-- CLOCK's TRANS (R155). -/
def Counter.clockTrans (c : Counter) : Bool := transitioned c.tick.position c.lastValue

/-- CLOCK's effect (R155): last_value takes the position when it changed, and so equals it in either case. -/
def Counter.clock (c : Counter) : Counter :=
  { c.tick with lastValue := if c.clockTrans then c.tick.position else c.lastValue }

/-- The motion count of an hm_val: `s4(hm_val[7:4]) mod 256` (30_encoding.md R89). -/
def motionCount (hm : Byte) : Byte := BitVec.ofInt 8 (s4 (hm.extractLsb' 4 4))

/-- START_HMOVE (R156): the load overwrites any pending count. -/
def Counter.startHmove (c : Counter) (hm : Byte) : Counter := { c with clocksToAdd := motionCount hm }

/-- APPLY_HMOVE's effect (R157): a count that is not 0 goes down by one. -/
def Counter.applyHmove (c : Counter) : Counter :=
  { c with clocksToAdd := if c.clocksToAdd = 0x00#8 then 0x00#8 else c.clocksToAdd - 1#8 }

/-- RESET on object `o` (R152). -/
def resetCommand (o : Obj) (s : State) : State := (s.setCnt o (s.cnt o).reset).ret (.ok .nothing)

/-- VALUE on object `o` (R153). -/
def valueCommand (o : Obj) (s : State) : State := s.ret (.ok (.position (s.cnt o).position))

/-- SET_VALUE on object `o` (R154): CounterDomain when `v >= period`; FAULT_INFO is the command word (log 18). -/
def setValueCommand (o : Obj) (v : Byte) (s : State) : State :=
  if (s.cnt o).period.toNat ≤ v.toNat then enterFault .counterDomain (encode (.setvOn o v)) s
  else (s.setCnt o ((s.cnt o).setValue v)).ret (.ok .nothing)

/-- CLOCK on object `o` (R155). -/
def clockCommand (o : Obj) (s : State) : State :=
  (s.setCnt o (s.cnt o).clock).ret (.ok (.transition (s.cnt o).clockTrans))

/-- START_HMOVE on object `o` (R156). -/
def startHmoveCommand (o : Obj) (hm : Byte) (s : State) : State :=
  (s.setCnt o ((s.cnt o).startHmove hm)).ret (.ok .nothing)

/-- APPLY_HMOVE on object `o` (R157): CONT is whether the count is still not 0. -/
def applyHmoveCommand (o : Obj) (s : State) : State :=
  (s.setCnt o (s.cnt o).applyHmove).ret (.ok (.motion (stillMoving (s.cnt o).applyHmove.clocksToAdd)))

/-- RESET P0 (R152). -/
def execResetP0 (s : State) : Host.Outcome State Fault Refusal := .next (resetCommand .p0 s)

/-- RESET P1 (R152). -/
def execResetP1 (s : State) : Host.Outcome State Fault Refusal := .next (resetCommand .p1 s)

/-- RESET M0 (R152). -/
def execResetM0 (s : State) : Host.Outcome State Fault Refusal := .next (resetCommand .m0 s)

/-- RESET M1 (R152). -/
def execResetM1 (s : State) : Host.Outcome State Fault Refusal := .next (resetCommand .m1 s)

/-- RESET BL (R152). -/
def execResetBl (s : State) : Host.Outcome State Fault Refusal := .next (resetCommand .bl s)

/-- VALUE P0 (R153). -/
def execValueP0 (s : State) : Host.Outcome State Fault Refusal := .next (valueCommand .p0 s)

/-- VALUE P1 (R153). -/
def execValueP1 (s : State) : Host.Outcome State Fault Refusal := .next (valueCommand .p1 s)

/-- VALUE M0 (R153). -/
def execValueM0 (s : State) : Host.Outcome State Fault Refusal := .next (valueCommand .m0 s)

/-- VALUE M1 (R153). -/
def execValueM1 (s : State) : Host.Outcome State Fault Refusal := .next (valueCommand .m1 s)

/-- VALUE BL (R153). -/
def execValueBl (s : State) : Host.Outcome State Fault Refusal := .next (valueCommand .bl s)

/-- SETV P0 (R154). -/
def execSetvP0 (v : Byte) (s : State) : Host.Outcome State Fault Refusal := .next (setValueCommand .p0 v s)

/-- SETV P1 (R154). -/
def execSetvP1 (v : Byte) (s : State) : Host.Outcome State Fault Refusal := .next (setValueCommand .p1 v s)

/-- SETV M0 (R154). -/
def execSetvM0 (v : Byte) (s : State) : Host.Outcome State Fault Refusal := .next (setValueCommand .m0 v s)

/-- SETV M1 (R154). -/
def execSetvM1 (v : Byte) (s : State) : Host.Outcome State Fault Refusal := .next (setValueCommand .m1 v s)

/-- SETV BL (R154). -/
def execSetvBl (v : Byte) (s : State) : Host.Outcome State Fault Refusal := .next (setValueCommand .bl v s)

/-- CLOCK P0 (R155). -/
def execClockP0 (s : State) : Host.Outcome State Fault Refusal := .next (clockCommand .p0 s)

/-- CLOCK P1 (R155). -/
def execClockP1 (s : State) : Host.Outcome State Fault Refusal := .next (clockCommand .p1 s)

/-- CLOCK M0 (R155). -/
def execClockM0 (s : State) : Host.Outcome State Fault Refusal := .next (clockCommand .m0 s)

/-- CLOCK M1 (R155). -/
def execClockM1 (s : State) : Host.Outcome State Fault Refusal := .next (clockCommand .m1 s)

/-- CLOCK BL (R155). -/
def execClockBl (s : State) : Host.Outcome State Fault Refusal := .next (clockCommand .bl s)

/-- HMSTART P0 (R156). -/
def execHmstartP0 (hm : Byte) (s : State) : Host.Outcome State Fault Refusal := .next (startHmoveCommand .p0 hm s)

/-- HMSTART P1 (R156). -/
def execHmstartP1 (hm : Byte) (s : State) : Host.Outcome State Fault Refusal := .next (startHmoveCommand .p1 hm s)

/-- HMSTART M0 (R156). -/
def execHmstartM0 (hm : Byte) (s : State) : Host.Outcome State Fault Refusal := .next (startHmoveCommand .m0 hm s)

/-- HMSTART M1 (R156). -/
def execHmstartM1 (hm : Byte) (s : State) : Host.Outcome State Fault Refusal := .next (startHmoveCommand .m1 hm s)

/-- HMSTART BL (R156). -/
def execHmstartBl (hm : Byte) (s : State) : Host.Outcome State Fault Refusal := .next (startHmoveCommand .bl hm s)

/-- HMAPPLY P0 (R157). -/
def execHmapplyP0 (s : State) : Host.Outcome State Fault Refusal := .next (applyHmoveCommand .p0 s)

/-- HMAPPLY P1 (R157). -/
def execHmapplyP1 (s : State) : Host.Outcome State Fault Refusal := .next (applyHmoveCommand .p1 s)

/-- HMAPPLY M0 (R157). -/
def execHmapplyM0 (s : State) : Host.Outcome State Fault Refusal := .next (applyHmoveCommand .m0 s)

/-- HMAPPLY M1 (R157). -/
def execHmapplyM1 (s : State) : Host.Outcome State Fault Refusal := .next (applyHmoveCommand .m1 s)

/-- HMAPPLY BL (R157). -/
def execHmapplyBl (s : State) : Host.Outcome State Fault Refusal := .next (applyHmoveCommand .bl s)

end Sys2Proof.Machine
end

