-- ==== Sys2Proof/Machine/Operands.lean ====
section
/-! DEFINITION. The operand forms of the resolver: instruction lengths (30_encoding.md R90), the operands in the instruction
stream (R88; 40_address_resolver.md R111) and the targets of pointers (20_memory.md R66, R67). Reads happen low byte first
(R64). -/

namespace Sys2Proof.Machine

/-- `n_bytes(mode)` (R90). -/
def nBytes (m : AddrMode) : Nat :=
  match m with
  | .implied => 1
  | .accumulator => 1
  | .immediate => 2
  | .zeroPage => 2
  | .zeroPageX => 2
  | .zeroPageY => 2
  | .indexedIndirect => 2
  | .indirectIndexed => 2
  | .relative => 2
  | .absolute => 3
  | .absoluteX => 3
  | .absoluteY => 3
  | .indirect => 3

/-- The modes that read X (10_state.md R30). -/
def readsX (m : AddrMode) : Bool :=
  match m with
  | .absoluteX => true
  | .zeroPageX => true
  | .indexedIndirect => true
  | .immediate => false
  | .absolute => false
  | .implied => false
  | .accumulator => false
  | .absoluteY => false
  | .zeroPage => false
  | .zeroPageY => false
  | .indirect => false
  | .indirectIndexed => false
  | .relative => false

/-- The modes that read Y (R30). -/
def readsY (m : AddrMode) : Bool :=
  match m with
  | .absoluteY => true
  | .zeroPageY => true
  | .indirectIndexed => true
  | .immediate => false
  | .absolute => false
  | .implied => false
  | .accumulator => false
  | .absoluteX => false
  | .zeroPage => false
  | .zeroPageX => false
  | .indirect => false
  | .indexedIndirect => false
  | .relative => false

/-- `pc_start`: the address of the instruction's first byte, from the already advanced PC (R111; 90_conflicts.md C1). -/
def pcStart (m : AddrMode) (s : State) : Word := sub16 s.pc (BitVec.ofNat 16 (nBytes m))

/-- The address of the first operand byte (R88). -/
def operandAddr (m : AddrMode) (s : State) : Word := add16 (pcStart m s) 1

/-- The one operand byte of a two-byte instruction (R88). -/
def readOperand8 (m : AddrMode) (s : State) : Byte × State := memRead (operandAddr m s) s

/-- The 16-bit operand of a three-byte instruction, little-endian (R63, R88). -/
def readOperand16 (m : AddrMode) (s : State) : Word × State :=
  let (lo, s1) := memRead (add16 (pcStart m s) 1) s
  let (hi, s2) := memRead (add16 (pcStart m s) 2) s1
  (littleEndian lo hi, s2)

/-- The 16-bit target of a pointer: the high byte comes from the same page (R67). -/
def readPointer (p : Word) (s : State) : Word × State :=
  let (lo, s1) := memRead p s
  let (hi, s2) := memRead (nextInPage p) s1
  (littleEndian lo hi, s2)

/-- A RESOLVE returns EA and EXTRA (R110). -/
def returnAddress (ea : Word) (extra : Bool) (s : State) : State := s.ret (.ok (.resolved ea extra))

end Sys2Proof.Machine
end

