-- ==== Sys2Proof/Machine/Nbytes.lean ====
section
/-! DEFINITION. NBYTES, one meaning per addressing mode (40_address_resolver.md R114): it reads no register and no memory. -/

namespace Sys2Proof.Machine

/-- LEN = n_bytes(m), 2 bits (R114, 30_encoding.md R90). -/
def returnLength (m : AddrMode) (s : State) : State := s.ret (.ok (.length (BitVec.ofNat 2 (nBytes m))))

/-- NBYTES IMM (R114). -/
def execNbytesImm (s : State) : Host.Outcome State Fault Refusal := .next (returnLength .immediate s)

/-- NBYTES ABS (R114). -/
def execNbytesAbs (s : State) : Host.Outcome State Fault Refusal := .next (returnLength .absolute s)

/-- NBYTES IMP (R114). -/
def execNbytesImp (s : State) : Host.Outcome State Fault Refusal := .next (returnLength .implied s)

/-- NBYTES ACC (R114). -/
def execNbytesAcc (s : State) : Host.Outcome State Fault Refusal := .next (returnLength .accumulator s)

/-- NBYTES ABX (R114). -/
def execNbytesAbx (s : State) : Host.Outcome State Fault Refusal := .next (returnLength .absoluteX s)

/-- NBYTES ABY (R114). -/
def execNbytesAby (s : State) : Host.Outcome State Fault Refusal := .next (returnLength .absoluteY s)

/-- NBYTES ZP (R114). -/
def execNbytesZp (s : State) : Host.Outcome State Fault Refusal := .next (returnLength .zeroPage s)

/-- NBYTES ZPX (R114). -/
def execNbytesZpx (s : State) : Host.Outcome State Fault Refusal := .next (returnLength .zeroPageX s)

/-- NBYTES ZPY (R114). -/
def execNbytesZpy (s : State) : Host.Outcome State Fault Refusal := .next (returnLength .zeroPageY s)

/-- NBYTES IND (R114). -/
def execNbytesInd (s : State) : Host.Outcome State Fault Refusal := .next (returnLength .indirect s)

/-- NBYTES IZX (R114). -/
def execNbytesIzx (s : State) : Host.Outcome State Fault Refusal := .next (returnLength .indexedIndirect s)

/-- NBYTES IZY (R114). -/
def execNbytesIzy (s : State) : Host.Outcome State Fault Refusal := .next (returnLength .indirectIndexed s)

/-- NBYTES REL (R114). -/
def execNbytesRel (s : State) : Host.Outcome State Fault Refusal := .next (returnLength .relative s)

end Sys2Proof.Machine
end

