-- ==== Sys2Proof/Machine/Resolve.lean ====
section
/-! DEFINITION. RESOLVE, one meaning per addressing mode (40_address_resolver.md R115 to R127). The resolver writes nothing
but the reads it issues and its result (R113). -/

namespace Sys2Proof.Machine

/-- RESOLVE Immediate (R115): the operand byte's own address, no read. -/
def execResolveImm (s : State) : Host.Outcome State Fault Refusal :=
  .next (returnAddress (operandAddr .immediate s) false s)

/-- RESOLVE Absolute (R116). -/
def execResolveAbs (s : State) : Host.Outcome State Fault Refusal :=
  let (ea, s1) := readOperand16 .absolute s
  .next (returnAddress ea false s1)

/-- RESOLVE Implied (R117): no address is meaningful, (0, false). -/
def execResolveImp (s : State) : Host.Outcome State Fault Refusal :=
  .next (returnAddress 0x0000#16 false s)

/-- RESOLVE Accumulator (R118): as for Implied. -/
def execResolveAcc (s : State) : Host.Outcome State Fault Refusal :=
  .next (returnAddress 0x0000#16 false s)

/-- RESOLVE AbsoluteX (R119). -/
def execResolveAbx (s : State) : Host.Outcome State Fault Refusal :=
  let (base, s1) := readOperand16 .absoluteX s
  let ea := add16 base (zext16 s.x)
  .next (returnAddress ea (pageCrossed base ea) s1)

/-- RESOLVE AbsoluteY (R120). -/
def execResolveAby (s : State) : Host.Outcome State Fault Refusal :=
  let (base, s1) := readOperand16 .absoluteY s
  let ea := add16 base (zext16 s.y)
  .next (returnAddress ea (pageCrossed base ea) s1)

/-- RESOLVE ZeroPage (R121). -/
def execResolveZp (s : State) : Host.Outcome State Fault Refusal :=
  let (z, s1) := readOperand8 .zeroPage s
  .next (returnAddress (zext16 z) false s1)

/-- RESOLVE ZeroPageX (R122): the index addition wraps in 8 bits. -/
def execResolveZpx (s : State) : Host.Outcome State Fault Refusal :=
  let (z, s1) := readOperand8 .zeroPageX s
  .next (returnAddress (zext16 (add8 z s.x)) false s1)

/-- RESOLVE ZeroPageY (R123). -/
def execResolveZpy (s : State) : Host.Outcome State Fault Refusal :=
  let (z, s1) := readOperand8 .zeroPageY s
  .next (returnAddress (zext16 (add8 z s.y)) false s1)

/-- RESOLVE Indirect (R124): EXTRA is 0 (D8). -/
def execResolveInd (s : State) : Host.Outcome State Fault Refusal :=
  let (p, s1) := readOperand16 .indirect s
  let (ea, s2) := readPointer p s1
  .next (returnAddress ea false s2)

/-- RESOLVE IndexedIndirect, pre-indexed (R125). -/
def execResolveIzx (s : State) : Host.Outcome State Fault Refusal :=
  let (b, s1) := readOperand8 .indexedIndirect s
  let (ea, s2) := readPointer (zext16 (add8 b s.x)) s1
  .next (returnAddress ea false s2)

/-- RESOLVE IndirectIndexed, post-indexed (R126). -/
def execResolveIzy (s : State) : Host.Outcome State Fault Refusal :=
  let (z, s1) := readOperand8 .indirectIndexed s
  let (base, s2) := readPointer (zext16 z) s1
  let ea := add16 base (zext16 s.y)
  .next (returnAddress ea (pageCrossed base ea) s2)

/-- RESOLVE Relative (R127): the displacement is added to the advanced PC; EXTRA is 0 (D8). -/
def execResolveRel (s : State) : Host.Outcome State Fault Refusal :=
  let (d, s1) := readOperand8 .relative s
  .next (returnAddress (add16 s.pc (sext16 d)) false s1)

end Sys2Proof.Machine
end

