-- ==== Sys2Proof/Machine/Dispatch.lean ====
section
/-! DEFINITION. One arm per instruction (30_encoding.md R93). -/

namespace Sys2Proof.Machine

def exec (i : Instr) (s : State) : Host.Outcome State Fault Refusal :=
  match i with
  | .resolveImm => Sys2Proof.Machine.execResolveImm s
  | .resolveAbs => Sys2Proof.Machine.execResolveAbs s
  | .resolveImp => Sys2Proof.Machine.execResolveImp s
  | .resolveAcc => Sys2Proof.Machine.execResolveAcc s
  | .resolveAbx => Sys2Proof.Machine.execResolveAbx s
  | .resolveAby => Sys2Proof.Machine.execResolveAby s
  | .resolveZp => Sys2Proof.Machine.execResolveZp s
  | .resolveZpx => Sys2Proof.Machine.execResolveZpx s
  | .resolveZpy => Sys2Proof.Machine.execResolveZpy s
  | .resolveInd => Sys2Proof.Machine.execResolveInd s
  | .resolveIzx => Sys2Proof.Machine.execResolveIzx s
  | .resolveIzy => Sys2Proof.Machine.execResolveIzy s
  | .resolveRel => Sys2Proof.Machine.execResolveRel s
  | .nbytesImm => Sys2Proof.Machine.execNbytesImm s
  | .nbytesAbs => Sys2Proof.Machine.execNbytesAbs s
  | .nbytesImp => Sys2Proof.Machine.execNbytesImp s
  | .nbytesAcc => Sys2Proof.Machine.execNbytesAcc s
  | .nbytesAbx => Sys2Proof.Machine.execNbytesAbx s
  | .nbytesAby => Sys2Proof.Machine.execNbytesAby s
  | .nbytesZp => Sys2Proof.Machine.execNbytesZp s
  | .nbytesZpx => Sys2Proof.Machine.execNbytesZpx s
  | .nbytesZpy => Sys2Proof.Machine.execNbytesZpy s
  | .nbytesInd => Sys2Proof.Machine.execNbytesInd s
  | .nbytesIzx => Sys2Proof.Machine.execNbytesIzx s
  | .nbytesIzy => Sys2Proof.Machine.execNbytesIzy s
  | .nbytesRel => Sys2Proof.Machine.execNbytesRel s
  | .resetP0 => Sys2Proof.Machine.execResetP0 s
  | .resetP1 => Sys2Proof.Machine.execResetP1 s
  | .resetM0 => Sys2Proof.Machine.execResetM0 s
  | .resetM1 => Sys2Proof.Machine.execResetM1 s
  | .resetBl => Sys2Proof.Machine.execResetBl s
  | .valueP0 => Sys2Proof.Machine.execValueP0 s
  | .valueP1 => Sys2Proof.Machine.execValueP1 s
  | .valueM0 => Sys2Proof.Machine.execValueM0 s
  | .valueM1 => Sys2Proof.Machine.execValueM1 s
  | .valueBl => Sys2Proof.Machine.execValueBl s
  | .setvP0 v => Sys2Proof.Machine.execSetvP0 v s
  | .setvP1 v => Sys2Proof.Machine.execSetvP1 v s
  | .setvM0 v => Sys2Proof.Machine.execSetvM0 v s
  | .setvM1 v => Sys2Proof.Machine.execSetvM1 v s
  | .setvBl v => Sys2Proof.Machine.execSetvBl v s
  | .clockP0 => Sys2Proof.Machine.execClockP0 s
  | .clockP1 => Sys2Proof.Machine.execClockP1 s
  | .clockM0 => Sys2Proof.Machine.execClockM0 s
  | .clockM1 => Sys2Proof.Machine.execClockM1 s
  | .clockBl => Sys2Proof.Machine.execClockBl s
  | .hmstartP0 hm => Sys2Proof.Machine.execHmstartP0 hm s
  | .hmstartP1 hm => Sys2Proof.Machine.execHmstartP1 hm s
  | .hmstartM0 hm => Sys2Proof.Machine.execHmstartM0 hm s
  | .hmstartM1 hm => Sys2Proof.Machine.execHmstartM1 hm s
  | .hmstartBl hm => Sys2Proof.Machine.execHmstartBl hm s
  | .hmapplyP0 => Sys2Proof.Machine.execHmapplyP0 s
  | .hmapplyP1 => Sys2Proof.Machine.execHmapplyP1 s
  | .hmapplyM0 => Sys2Proof.Machine.execHmapplyM0 s
  | .hmapplyM1 => Sys2Proof.Machine.execHmapplyM1 s
  | .hmapplyBl => Sys2Proof.Machine.execHmapplyBl s

end Sys2Proof.Machine
end

