-- ==== Sys2Proof/Machine/HostSide.lean ====
section
/-! DEFINITION. How the host's inputs are taken, one at a time (00_scope.md R11, R12): command words, motions under
HMOVE_PROTOCOL, RST, and the host's own writes to PC, X, Y and memory. HMOVE_PROTOCOL is an argument (R13; 10_state.md R47).
`Machine/Step.lean` only calls this. -/

namespace Sys2Proof.Machine

/-- The host has done its duty of 70_reset_and_hazards.md R224 item 3 for this command: for a RESOLVE it has written PC, and the
X or Y its mode reads (D25; log 4). No other command asks for it. -/
def processorReady (p : Processor) (i : Instr) : Bool :=
  match i.resolveMode with
  | some m => p.pcWritten && (!readsX m || p.xWritten) && (!readsY m || p.yWritten)
  | none => true

/-- A command word (60_exceptions.md R195): a halted block takes none (R197); a word that is no command enters its fault
before any read or write (R94, R196); a command runs. -/
def takeCommand (w : Word) (s : State) : Host.Outcome State Fault Refusal :=
  if s.halted then .fault .halted
  else
    match decode w with
    | .error c => .next (enterFault c w s)
    | .ok i => if processorReady s.processor i then exec i s else .fault .processorStateUnset

/-- CONT of the APPLY_HMOVE answer the host received last (10_state.md R34). -/
def State.answeredCont (s : State) : Bool := decide (s.lastResult = some (.ok (.motion true)))

/-- What the host issues on the APPLY_HMOVE answer CONT = `cont` after the events `h`: the protocol's extra CLOCK(o) words,
and then, unless it stops, APPLY_HMOVE(o) again (41_position_counter.md R158; 00_scope.md R13). -/
def motionInputs (hp : HmoveProtocol) (h : List Event) (o : Obj) (cont : Bool) : List HostInput :=
  List.replicate (hp.extraClocks h o cont) (.command (encode (.clockOn o))) ++ (if hp.stops h o cont then [] else [.motion o])

/-- The host has its APPLY_HMOVE answer, and what its protocol issues comes before what else it had to do (R158; log 19). -/
def followMotion (hp : HmoveProtocol) (o : Obj) (s : State) : State :=
  { s with inputs := motionInputs hp s.trace o s.answeredCont ++ s.inputs }

/-- A motion: the command APPLY_HMOVE(o), taken like any command word, and the host's reaction to its answer. -/
def takeMotion (hp : HmoveProtocol) (o : Obj) (s : State) : Host.Outcome State Fault Refusal :=
  match takeCommand (encode (.hmapplyOn o)) s with
  | .next t => .next (followMotion hp o t)
  | .fault f => .fault f
  | .refused r => .refused r

/-- RST (70_reset_and_hazards.md R220), refused outside the domain of NEW (41_position_counter.md R151). -/
def takeReset (ps : PerObj ObjParams) (s : State) : Host.Outcome State Fault Refusal :=
  if ps.paramsWf then .next (blockReset ps s) else .refused .configurationRefused

/-- The fetch stage writes PC (10_state.md R33). -/
def hostWritePC (v : Word) (s : State) : State :=
  { s with processor := { s.processor with pc := v, pcWritten := true } }
/-- The host writes X. -/
def hostWriteX (v : Byte) (s : State) : State :=
  { s with processor := { s.processor with x := v, xWritten := true } }
/-- The host writes Y. -/
def hostWriteY (v : Byte) (s : State) : State :=
  { s with processor := { s.processor with y := v, yWritten := true } }
/-- The host changes the memory behind its bus (20_memory.md R73): the address answers with that byte from now on. -/
def hostWriteMem (a : Word) (b : Byte) (s : State) : State :=
  { s with memory := Memory.write s.memory a.toNat b }

/-- One host input, of a host whose HMOVE_PROTOCOL is `hp`. -/
def takeInput (hp : HmoveProtocol) (i : HostInput) (s : State) : Host.Outcome State Fault Refusal :=
  match i with
  | .command w => takeCommand w s
  | .motion o => takeMotion hp o s
  | .rst ps => takeReset ps s
  | .writePC v => .next (hostWritePC v s)
  | .writeX v => .next (hostWriteX v s)
  | .writeY v => .next (hostWriteY v s)
  | .writeMem a b => .next (hostWriteMem a b s)

/-- The state in which the next input `i` is taken: it has left the queue and stands in the history. -/
def State.afterInput (s : State) (i : HostInput) (rest : List HostInput) : State :=
  { s with inputs := rest }.record (.input i)

/-- The next host input is taken; a block the host asks nothing of takes no step (00_scope.md R10). -/
def hostStep (hp : HmoveProtocol) (s : State) : Host.Outcome State Fault Refusal :=
  match s.inputs with
  | [] => .fault .awaitingHost
  | i :: rest => takeInput hp i (s.afterInput i rest)

/-- The host issues command word `w` next, with a ProcessorState it has written (00_scope.md R12: "command word; PC, X, Y"). -/
def hostIssues (w : Word) (s : State) : State :=
  { s with
    inputs := .command w :: s.inputs
    processor := { s.processor with pcWritten := true, xWritten := true, yWritten := true } }

end Sys2Proof.Machine
end

