-- ==== Sys2Proof/Machine/Step.lean ====
section
/-! DEFINITION. One step of the machine: the next host input is taken (00_scope.md R11). -/

namespace Sys2Proof.Machine

/-- One step, HMOVE_PROTOCOL being the configuration's. -/
def step (s : State) : Host.Outcome State Fault Refusal := hostStep Config.hmoveProtocol s

/-- `s` with the command word `w` as the host's next input (log 2). -/
def State.withFetchWord (s : State) (_nbits w : Nat) : State := hostIssues (BitVec.ofNat 16 w) s

end Sys2Proof.Machine
end

