-- ==== Sys2Proof/Safety.lean ====
section
/-! DEFINITION. The terms statements are made in: the invariant of the machine, how a run ends, what a command may be seen
to do. -/

namespace Sys2Proof.Machine

/-- What holds of every counter instance (10_state.md R37, R38): its constants are in the domain of NEW (R151), the internal
value is below period*4 and the last position below period. -/
abbrev Counter.Inv (c : Counter) : Prop :=
  1 ≤ c.period.toNat ∧ c.resetValue.toNat ≤ 39 ∧ c.resetValue.toNat < c.period.toNat ∧
    c.internalValue.toNat < c.period.toNat * 4 ∧ c.lastValue.toNat < c.period.toNat

/-- What every step keeps: every counter instance is legal, FAULT's reserved bits are 0 (R44), the memory image is in its
canonical form. -/
def State.Inv (s : State) : Prop :=
  (∀ o, (s.cnt o).Inv) ∧ s.fault.extractLsb' 2 6 = 0#6 ∧ Memory.wf s.memory = true

/-- A run has ended successfully: nothing is left to issue and FAULT.CAUSE is 0 (70_reset_and_hazards.md R233). -/
def State.endedWell (s : State) : Prop := s.inputs = [] ∧ s.cause = 0#2

/-- The bus answers these reads, made one after another from `s`, with these bytes (20_memory.md R62, R64). -/
def Answers (s : State) (reads : List (Word × Byte)) : Prop :=
  match reads with
  | [] => True
  | (a, b) :: rest => s.busAnswer a = b ∧ Answers (s.record (.read a b)) rest

/-- The state in which a command that did these reads, in this order, and wrote nothing has returned `r`: every register,
counter, fault register, memory byte and pending input is as before. -/
def State.observed (s : State) (reads : List (Word × Byte)) (r : Result) : State :=
  { s with trace := s.trace ++ reads.map (fun ab => .read ab.1 ab.2) ++ [.returned r] }

/-- `t` is `s` but for object `o`'s instance and the event that the command returned `r` (41_position_counter.md R150, R159):
every other instance, PC, X, Y, FAULT, FAULT_INFO, memory and the pending inputs are unchanged, and there is no bus read. -/
def OnlyCounter (o : Obj) (r : Result) (s t : State) : Prop :=
  t = { s with counters := t.counters, trace := s.trace ++ [.returned r] } ∧ ∀ o', o' ≠ o → t.cnt o' = s.cnt o'

/-- How many bus reads each command makes (20_memory.md R65, R75; 40_address_resolver.md R114). -/
def readCount (i : Instr) : Nat :=
  match i.resolveMode with
  | some .immediate => 0
  | some .implied => 0
  | some .accumulator => 0
  | some .zeroPage => 1
  | some .zeroPageX => 1
  | some .zeroPageY => 1
  | some .relative => 1
  | some .absolute => 2
  | some .absoluteX => 2
  | some .absoluteY => 2
  | some .indexedIndirect => 3
  | some .indirectIndexed => 3
  | some .indirect => 4
  | none => 0

/-- The command is an operation on object `o`'s instance (30_encoding.md R85). -/
def IsCounterCommand (i : Instr) (o : Obj) : Prop :=
  i = .resetOn o ∨ i = .valueOn o ∨ (∃ v, i = .setvOn o v) ∨ i = .clockOn o ∨ (∃ hm, i = .hmstartOn o hm) ∨ i = .hmapplyOn o

/-- A Format B word: the word of its operation on P0, plus OBJ * 0x100 (30_encoding.md R86, R95). -/
def counterWord (base : Word) (o : Obj) : Word :=
  match o with
  | .p0 => base
  | .p1 => base + 0x100#16
  | .m0 => base + 0x200#16
  | .m1 => base + 0x300#16
  | .bl => base + 0x400#16

/-- `s` with the host's X at `v`, and nothing else different. -/
def State.withX (s : State) (v : Byte) : State := { s with processor := { s.processor with x := v } }
/-- `s` with the host's Y at `v`, and nothing else different. -/
def State.withY (s : State) (v : Byte) : State := { s with processor := { s.processor with y := v } }
/-- `s` with the host's PC at `v`, and nothing else different. -/
def State.withPC (s : State) (v : Word) : State := { s with processor := { s.processor with pc := v } }

/-- A step that finds `i` in a state that is not halted runs it and returns Ok: the host has written what it needs
(70_reset_and_hazards.md R224, log 4), and a SET_VALUE is within its domain (41_position_counter.md R154). -/
def State.Admits (s : State) (i : Instr) : Prop :=
  processorReady s.processor i = true ∧ ∀ o v, i = .setvOn o v → v.toNat < (s.cnt o).period.toNat

/-- The machine under a named HMOVE_PROTOCOL (00_scope.md R13, 92_eei_decisions.md D17: "Claims about object movement must
state the protocol"). -/
abbrev machineUnder (hp : HmoveProtocol) : Host.Core where
  State   := State
  Fault   := Fault
  Refusal := Refusal
  step    := hostStep hp
  reset   := State.reset

/-- Commands run one after another, each from the state the one before it left (00_scope.md R11), up to the first stop.
It does not ask whether a command entered a fault, as `exec` does not (log 13): a statement about a run says `State.Admits`. -/
def execAll (is : List Instr) (s : State) : Host.Outcome State Fault Refusal :=
  match is with
  | [] => .next s
  | i :: rest =>
    match exec i s with
    | .next t => execAll rest t
    | .fault r => .fault r
    | .refused r => .refused r

end Sys2Proof.Machine
end

