-- ==== Sys2Proof/Certificates/Slice0/Obligations.lean ====
section
/-! DEFINITION. The statements for the provers. In a statement about a RESOLVE the bytes are whatever the bus answers
(`Answers`), so it holds for every bus (20_memory.md R62); `State.observed` says that nothing but the reads and the result
is new, which is the command's frame. A statement over every object `o` covers the five constructors of its operation. -/

open Sys2Proof Sys2Proof.Machine

/-! ### RESOLVE (40_address_resolver.md R115 to R127) -/

/-- R115 (constructor resolveImm). -/
def Obligations.ResolveImmediateIsOperandAddress : Prop :=
  decode 0x0000#16 = .ok .resolveImm ∧
  ∀ s : State, exec .resolveImm s = .next (s.observed [] (.ok (.resolved (s.pc - 1) false)))

/-- R116 (constructor resolveAbs). -/
def Obligations.ResolveAbsoluteReadsLittleEndian : Prop :=
  decode 0x0001#16 = .ok .resolveAbs ∧
  ∀ (s : State) (lo hi : Byte), Answers s [(s.pc - 2, lo), (s.pc - 1, hi)] →
    exec .resolveAbs s = .next (s.observed [(s.pc - 2, lo), (s.pc - 1, hi)] (.ok (.resolved (hi ++ lo) false)))

/-- R117, R118 (constructors resolveImp, resolveAcc). -/
def Obligations.ResolveImpliedAndAccumulatorReturnNoAddress : Prop :=
  decode 0x0002#16 = .ok .resolveImp ∧ decode 0x0003#16 = .ok .resolveAcc ∧
  ∀ s : State, exec .resolveImp s = .next (s.observed [] (.ok (.resolved 0 false))) ∧
    exec .resolveAcc s = .next (s.observed [] (.ok (.resolved 0 false)))

/-- R119 with R112 (constructor resolveAbx). -/
def Obligations.ResolveAbsoluteXAddsIndexAndTellsPageCrossing : Prop :=
  decode 0x0004#16 = .ok .resolveAbx ∧
  ∀ (s : State) (lo hi : Byte) (base ea : Word), Answers s [(s.pc - 2, lo), (s.pc - 1, hi)] →
    base = hi ++ lo → ea = base + s.x.zeroExtend 16 →
    exec .resolveAbx s = .next (s.observed [(s.pc - 2, lo), (s.pc - 1, hi)]
      (.ok (.resolved ea (decide (base &&& 0xFF00#16 ≠ ea &&& 0xFF00#16)))))

/-- R120 with R112 (constructor resolveAby). -/
def Obligations.ResolveAbsoluteYAddsIndexAndTellsPageCrossing : Prop :=
  decode 0x0005#16 = .ok .resolveAby ∧
  ∀ (s : State) (lo hi : Byte) (base ea : Word), Answers s [(s.pc - 2, lo), (s.pc - 1, hi)] →
    base = hi ++ lo → ea = base + s.y.zeroExtend 16 →
    exec .resolveAby s = .next (s.observed [(s.pc - 2, lo), (s.pc - 1, hi)]
      (.ok (.resolved ea (decide (base &&& 0xFF00#16 ≠ ea &&& 0xFF00#16)))))

/-- R121 (constructor resolveZp). -/
def Obligations.ResolveZeroPageIsOperandByte : Prop :=
  decode 0x0006#16 = .ok .resolveZp ∧
  ∀ (s : State) (z : Byte), Answers s [(s.pc - 1, z)] →
    exec .resolveZp s = .next (s.observed [(s.pc - 1, z)] (.ok (.resolved (0x00#8 ++ z) false)))

/-- R122 (constructor resolveZpx). -/
def Obligations.ResolveZeroPageXWrapsInPageZero : Prop :=
  decode 0x0007#16 = .ok .resolveZpx ∧
  ∀ (s : State) (z : Byte), Answers s [(s.pc - 1, z)] →
    exec .resolveZpx s = .next (s.observed [(s.pc - 1, z)]
      (.ok (.resolved (BitVec.ofNat 16 ((z.toNat + s.x.toNat) % 256)) false)))

/-- R123 (constructor resolveZpy). -/
def Obligations.ResolveZeroPageYWrapsInPageZero : Prop :=
  decode 0x0008#16 = .ok .resolveZpy ∧
  ∀ (s : State) (z : Byte), Answers s [(s.pc - 1, z)] →
    exec .resolveZpy s = .next (s.observed [(s.pc - 1, z)]
      (.ok (.resolved (BitVec.ofNat 16 ((z.toNat + s.y.toNat) % 256)) false)))

/-- R124 with next_in_page of 20_memory.md R67 written out as phi:(plo + 1 mod 256) (constructor resolveInd). -/
def Obligations.ResolveIndirectReadsTargetWithinPage : Prop :=
  decode 0x0009#16 = .ok .resolveInd ∧
  ∀ (s : State) (plo phi tlo thi : Byte) (reads : List (Word × Byte)),
    reads = [(s.pc - 2, plo), (s.pc - 1, phi), (phi ++ plo, tlo), (phi ++ (plo + 1), thi)] → Answers s reads →
    exec .resolveInd s = .next (s.observed reads (.ok (.resolved (thi ++ tlo) false)))

/-- R125 (constructor resolveIzx). -/
def Obligations.ResolveIndexedIndirectReadsPointerInPageZero : Prop :=
  decode 0x000A#16 = .ok .resolveIzx ∧
  ∀ (s : State) (b tlo thi : Byte) (reads : List (Word × Byte)),
    reads = [(s.pc - 1, b), (0x00#8 ++ (b + s.x), tlo), (0x00#8 ++ (b + s.x + 1), thi)] → Answers s reads →
    exec .resolveIzx s = .next (s.observed reads (.ok (.resolved (thi ++ tlo) false)))

/-- R126 with R112 (constructor resolveIzy). -/
def Obligations.ResolveIndirectIndexedAddsYAfterPointer : Prop :=
  decode 0x000B#16 = .ok .resolveIzy ∧
  ∀ (s : State) (z blo bhi : Byte) (base ea : Word) (reads : List (Word × Byte)),
    reads = [(s.pc - 1, z), (0x00#8 ++ z, blo), (0x00#8 ++ (z + 1), bhi)] → Answers s reads →
    base = bhi ++ blo → ea = base + s.y.zeroExtend 16 →
    exec .resolveIzy s = .next (s.observed reads
      (.ok (.resolved ea (decide (base &&& 0xFF00#16 ≠ ea &&& 0xFF00#16)))))

/-- R127 (constructor resolveRel). -/
def Obligations.ResolveRelativeAddsToAdvancedPC : Prop :=
  decode 0x000C#16 = .ok .resolveRel ∧
  ∀ (s : State) (d : Byte), Answers s [(s.pc - 1, d)] →
    exec .resolveRel s = .next (s.observed [(s.pc - 1, d)]
      (.ok (.resolved (BitVec.ofInt 16 (s.pc.toNat + (if d.toNat < 128 then (d.toNat : Int) else d.toNat - 256))) false)))

/-! ### The motion of an object under HMOVE_PROTOCOL (41_position_counter.md R158) -/

/-- Derived: R158 with HMOVE_PROTOCOL (R13, D17) as the argument `hp`. That a motion is an input of its own, and that what the protocol
issues comes before what else the host had to do, is the model's choice (log 19). -/
def Obligations.MotionFollowsItsProtocol : Prop :=
  ∀ (hp : HmoveProtocol) (s : State) (o : Obj) (rest : List HostInput), s.inputs = .motion o :: rest → s.cause = 0 →
  (∃ (u : State) (cont : Bool),
    exec (.hmapplyOn o) { s with inputs := rest, trace := s.trace ++ [.input (.motion o)] } = .next u ∧
    u.lastResult = some (.ok (.motion cont)) ∧
    hostStep hp s = .next { u with
      inputs := List.replicate (hp.extraClocks u.trace o cont) (.command (counterWord 0xB000#16 o)) ++
        (if hp.stops u.trace o cont = true then rest else .motion o :: rest) }) ∧
  (∀ k m : Nat, (s.cnt o).Inv → (∀ h cont, hp.extraClocks h o cont = k) → (∀ h cont, hp.stops h o cont = !cont) →
    m = max 1 (s.cnt o).clocksToAdd.toNat →
    ∃ (t : State) (iv : Word) (pos : Byte), (machineUnder hp).run (m * (k + 1)) s = .next t ∧
      t = { s with inputs := rest, counters := t.counters, trace := t.trace } ∧
      t.cnt o = { s.cnt o with internalValue := iv, lastValue := pos, clocksToAdd := 0 } ∧
      iv.toNat = ((s.cnt o).internalValue.toNat + m * k) % (4 * (s.cnt o).period.toNat) ∧
      (0 < k → pos.toNat = iv.toNat / 4) ∧ (k = 0 → pos = (s.cnt o).lastValue) ∧
      ∀ o', o' ≠ o → t.cnt o' = s.cnt o')

/-! ### NBYTES (40_address_resolver.md R114, 30_encoding.md R90) -/

/-- R114 with the table of R90 (all thirteen nbytes constructors). -/
def Obligations.NbytesReturnsModeLength : Prop :=
  (∀ m : AddrMode, decode (0x4000#16 ||| (modeCode m).zeroExtend 16) = .ok (.nbytesOf m)) ∧
  (∀ w ∈ [0x400D#16, 0x400E#16, 0x400F#16], decode w = .error .invalidAddressingMode ∧
    ∀ (s : State) (rest : List HostInput), s.inputs = .command w :: rest → s.cause = 0 →
      step s = .next { s with
        inputs := rest, fault := 0x01#8, faultInfo := w,
        trace := s.trace ++ [.input (.command w), .returned (.err .invalidAddressingMode)] }) ∧
  (∀ i ∈ [Instr.nbytesImp, .nbytesAcc], ∀ s : State, exec i s = .next (s.observed [] (.ok (.length 1)))) ∧
  (∀ i ∈ [Instr.nbytesImm, .nbytesZp, .nbytesZpx, .nbytesZpy, .nbytesIzx, .nbytesIzy, .nbytesRel],
    ∀ s : State, exec i s = .next (s.observed [] (.ok (.length 2)))) ∧
  (∀ i ∈ [Instr.nbytesAbs, .nbytesAbx, .nbytesAby, .nbytesInd],
    ∀ s : State, exec i s = .next (s.observed [] (.ok (.length 3))))

/-! ### Counter commands (41_position_counter.md R150 to R157) -/

/-- R152 (the five reset constructors). -/
def Obligations.CounterResetLoadsDefaultPosition : Prop :=
  ∀ o : Obj, decode (counterWord 0x8000#16 o) = .ok (.resetOn o) ∧
  ∀ s : State, ∃ (t : State) (iv : Word), exec (.resetOn o) s = .next t ∧ OnlyCounter o (.ok .nothing) s t ∧
    t.cnt o = { s.cnt o with internalValue := iv } ∧ iv.toNat = (s.cnt o).resetValue.toNat * 4

/-- R153 (the five value constructors). The premise rules out states no run reaches; CounterInvariantKept keeps it. -/
def Obligations.CounterValueReturnsPosition : Prop :=
  ∀ o : Obj, decode (counterWord 0x9000#16 o) = .ok (.valueOn o) ∧
  ∀ s : State, (s.cnt o).Inv →
    ∃ pos : Byte, exec (.valueOn o) s = .next (s.observed [] (.ok (.position pos))) ∧
      pos.toNat = (s.cnt o).internalValue.toNat / 4 ∧ pos.toNat < (s.cnt o).period.toNat

/-- R154 for v below period (the five setv constructors); CounterSetValueOutOfDomainFaults says the other case. -/
def Obligations.CounterSetValueWritesPosition : Prop :=
  ∀ (o : Obj) (v : Byte), decode (counterWord 0xA000#16 o + BitVec.ofNat 16 v.toNat) = .ok (.setvOn o v) ∧
  ∀ s : State, v.toNat < (s.cnt o).period.toNat →
    ∃ (t : State) (iv : Word), exec (.setvOn o v) s = .next t ∧ OnlyCounter o (.ok .nothing) s t ∧
      t.cnt o = { s.cnt o with internalValue := iv } ∧ iv.toNat = v.toNat * 4

/-- R154 and R193 for v of at least period, with fault entry R196 (the five setv constructors). -/
def Obligations.CounterSetValueOutOfDomainFaults : Prop :=
  ∀ (o : Obj) (v : Byte) (s : State), (s.cnt o).period.toNat ≤ v.toNat →
  ∃ t : State, exec (.setvOn o v) s = .next t ∧ t.halted = true ∧
    t = { s with fault := 0x03#8, faultInfo := counterWord 0xA000#16 o + BitVec.ofNat 16 v.toNat,
                 trace := s.trace ++ [.returned (.err .counterDomain)] }

/-- R155 (the five clock constructors). -/
def Obligations.CounterClockStepsAndTellsTransition : Prop :=
  ∀ o : Obj, decode (counterWord 0xB000#16 o) = .ok (.clockOn o) ∧
  ∀ s : State, (s.cnt o).Inv →
    ∃ (t : State) (iv : Word) (pos : Byte) (trans : Bool), exec (.clockOn o) s = .next t ∧
      OnlyCounter o (.ok (.transition trans)) s t ∧
      t.cnt o = { s.cnt o with internalValue := iv, lastValue := pos } ∧
      iv.toNat = ((s.cnt o).internalValue.toNat + 1) % ((s.cnt o).period.toNat * 4) ∧ pos.toNat = iv.toNat / 4 ∧
      (trans = true ↔ pos ≠ (s.cnt o).lastValue)

/-- R156 with the table of R89 (the five hmstart constructors). -/
def Obligations.CounterStartHmoveLoadsNibble : Prop :=
  ∀ (o : Obj) (hm : Byte), decode (counterWord 0xC000#16 o + BitVec.ofNat 16 hm.toNat) = .ok (.hmstartOn o hm) ∧
  ∀ s : State, ∃ (t : State) (count : Byte), exec (.hmstartOn o hm) s = .next t ∧ OnlyCounter o (.ok .nothing) s t ∧
    t.cnt o = { s.cnt o with clocksToAdd := count } ∧
    count.toNat = (if hm.toNat / 16 < 8 then hm.toNat / 16 else 240 + hm.toNat / 16)

/-- R157 (the five hmapply constructors). -/
def Obligations.CounterApplyHmoveCountsDown : Prop :=
  ∀ o : Obj, decode (counterWord 0xD000#16 o) = .ok (.hmapplyOn o) ∧
  ∀ s : State, ∃ (t : State) (count : Byte) (cont : Bool), exec (.hmapplyOn o) s = .next t ∧
    OnlyCounter o (.ok (.motion cont)) s t ∧ t.cnt o = { s.cnt o with clocksToAdd := count } ∧
    count.toNat = (s.cnt o).clocksToAdd.toNat - 1 ∧ (cont = true ↔ 1 < (s.cnt o).clocksToAdd.toNat)

/-! ### Rules over runs of counter commands -/

/-- R160, which the spec derives. The run may hold commands of the resolver and on other instances ("no other command on the
instance"); `State.Admits` keeps out those after which the block takes no CLOCK (R193, R197, R224). -/
def Obligations.ClockRunWrapsAndTransitsEveryFourth : Prop :=
  ∀ (s : State) (o : Obj) (q n : Nat) (run : List Instr), s.cause = 0 → (∀ i ∈ run, s.Admits i) → (s.cnt o).Inv →
  (s.cnt o).internalValue.toNat = 4 * q → (s.cnt o).lastValue.toNat = q →
  (∀ i ∈ run, IsCounterCommand i o → i = .clockOn o) → n = run.count (.clockOn o) →
  ∃ (t : State) (iv : Word) (pos : Byte), execAll run s = .next t ∧ t.cause = 0 ∧
    t.cnt o = { s.cnt o with internalValue := iv, lastValue := pos } ∧
    iv.toNat = (4 * q + n) % (4 * (s.cnt o).period.toNat) ∧ pos.toNat = iv.toNat / 4 ∧
    (n = 4 * (s.cnt o).period.toNat → t.cnt o = s.cnt o) ∧
    (1 < (s.cnt o).period.toNat →
      ∃ u, exec (.clockOn o) t = .next u ∧ u.lastResult = some (.ok (.transition (decide (4 ∣ n + 1)))))

/-- The first corner case of R157. -/
def Obligations.HmoveCountReturnsContUntilConsumed : Prop :=
  ∀ (s : State) (o : Obj) (n : Nat),
  ∃ (t : State) (count : Byte), execAll (List.replicate n (.hmapplyOn o)) s = .next t ∧
    t.cnt o = { s.cnt o with clocksToAdd := count } ∧ count.toNat = (s.cnt o).clocksToAdd.toNat - n ∧
    (∀ o', o' ≠ o → t.cnt o' = s.cnt o') ∧
    t.trace = s.trace ++
      (List.range n).map (fun j => .returned (.ok (.motion (decide (j + 1 < (s.cnt o).clocksToAdd.toNat)))))

/-- The round trips of the source (vectors L1-6 and L1-7). -/
def Obligations.ValueAfterSetOrResetIsTheValueWritten : Prop :=
  ∀ (s : State) (o : Obj), (s.cnt o).Inv →
  (∀ v : Byte, v.toNat < (s.cnt o).period.toNat →
    ∃ t, execAll [.setvOn o v, .valueOn o] s = .next t ∧ t.lastResult = some (.ok (.position v))) ∧
  (∃ t, execAll [.resetOn o, .valueOn o] s = .next t ∧
    t.lastResult = some (.ok (.position (s.cnt o).resetValue)))

/-- The first sentence of R229. -/
def Obligations.ClockAfterMoveReportsTransitionOffBoundary : Prop :=
  ∀ (s : State) (o : Obj), (s.cnt o).Inv → 1 < (s.cnt o).period.toNat →
  ((s.cnt o).resetValue ≠ (s.cnt o).lastValue →
    ∃ t, execAll [.resetOn o, .clockOn o] s = .next t ∧ t.lastResult = some (.ok (.transition true)) ∧
      (t.cnt o).internalValue.toNat = (s.cnt o).resetValue.toNat * 4 + 1) ∧
  (∀ v : Byte, v.toNat < (s.cnt o).period.toNat → v ≠ (s.cnt o).lastValue →
    ∃ t, execAll [.setvOn o v, .clockOn o] s = .next t ∧ t.lastResult = some (.ok (.transition true)) ∧
      (t.cnt o).internalValue.toNat = v.toNat * 4 + 1)

/-- The third corner case of R155 (derived there). -/
def Obligations.PeriodOneNeverTransits : Prop :=
  ∀ (s : State) (o : Obj), (s.cnt o).Inv → (s.cnt o).period = 1#8 →
  ∃ t, exec (.clockOn o) s = .next t ∧ t.lastResult = some (.ok (.transition false)) ∧ (t.cnt o).lastValue = 0

/-! ### Rules over all commands -/

/-- Derived: no command waits or has no effect (R207, R230, R232); a SET_VALUE with v >= period answers its fault entry (R196).
It speaks of exec alone: the checks of R197 and R224 are step's, the first by the model's choice (log 13, DESIGN CHOICE), the
second by its reading (log 4). -/
def Obligations.EveryCommandCompletes : Prop :=
  ∀ (i : Instr) (s : State), ∃ t, exec i s = .next t

/-- The whole-machine sentences "No command of this block writes PC, X or Y" and "It never writes". -/
def Obligations.NoCommandWritesProcessorOrMemory : Prop :=
  ∀ (i : Instr) (s t : State), exec i s = .next t →
  t.processor = s.processor ∧ t.memory = s.memory ∧ t.inputs = s.inputs

/-- R113 with the read counts of 20_memory.md R65 (all resolve and nbytes constructors). -/
def Obligations.ResolverWritesNothingButReads : Prop :=
  ∀ (i : Instr), (∀ o, ¬ IsCounterCommand i o) →
  ∀ s : State, ∃ (reads : List (Word × Byte)) (r : Result),
    exec i s = .next (s.observed reads r) ∧ Answers s reads ∧ reads.length = readCount i

/-- The column of R84's table; rests on decision D8 of the spec for Indirect and Relative. -/
def Obligations.ExtraOnlyForThreeIndexedModes : Prop :=
  ∀ (i : Instr) (s t : State) (ea : Word), exec i s = .next t → t.lastResult = some (.ok (.resolved ea true)) →
  i = .resolveAbx ∨ i = .resolveAby ∨ i = .resolveIzy

/-- R68. -/
def Obligations.ZeroPageModesStayInPageZero : Prop :=
  (∀ i ∈ [Instr.resolveZp, .resolveZpx, .resolveZpy], ∀ s : State, ∃ (t : State) (ea : Word) (extra : Bool),
    exec i s = .next t ∧ t.lastResult = some (.ok (.resolved ea extra)) ∧ ea.toNat < 0x100) ∧
  (∀ i ∈ [Instr.resolveIzx, .resolveIzy], ∀ s : State, ∃ (b tlo thi : Byte) (a p q : Word) (r : Result),
    exec i s = .next (s.observed [(a, b), (p, tlo), (q, thi)] r) ∧ p.toNat < 0x100 ∧ q.toNat < 0x100) ∧
  nextInPage 0x00FF#16 = 0x0000#16

/-- R30's column "block access" and R31. -/
def Obligations.UnreadIndexRegistersDoNotMatter : Prop :=
  ∀ (i : Instr) (s t : State), exec i s = .next t →
  (i ∉ [Instr.resolveAbx, .resolveZpx, .resolveIzx] → ∀ v, exec i (s.withX v) = .next (t.withX v)) ∧
  (i ∉ [Instr.resolveAby, .resolveZpy, .resolveIzy] → ∀ v, exec i (s.withY v) = .next (t.withY v)) ∧
  ((i.resolveMode = none ∨ i = .resolveImp ∨ i = .resolveAcc) → ∀ v, exec i (s.withPC v) = .next (t.withPC v))

/-- R150 and R159 (all thirty counter constructors), with the fault entry of R196 for a SET_VALUE outside its domain. -/
def Obligations.CounterCommandsAreIndependent : Prop :=
  ∀ (i : Instr) (o : Obj) (s s' : State), IsCounterCommand i o → s.cnt o = s'.cnt o →
  ∃ t t' : State, exec i s = .next t ∧ exec i s' = .next t' ∧ t.cnt o = t'.cnt o ∧
    ((∃ out, OnlyCounter o (.ok out) s t ∧ OnlyCounter o (.ok out) s' t') ∨
      ((∃ v, i = .setvOn o v ∧ (s.cnt o).period.toNat ≤ v.toNat) ∧
        t = { s with fault := 0x03#8, faultInfo := encode i, trace := s.trace ++ [.returned (.err .counterDomain)] } ∧
        t' = { s' with fault := 0x03#8, faultInfo := encode i, trace := s'.trace ++ [.returned (.err .counterDomain)] }))

/-- The second sentence of R159, for every pair of counter commands neither of which faults (`State.Admits`): after a fault the
other command would have no step (R196, R197). -/
def Obligations.ClocksOnTwoObjectsCommute : Prop :=
  ∀ (i j : Instr) (o o' : Obj) (s : State), s.cause = 0 → s.Admits i → s.Admits j →
  o ≠ o' → IsCounterCommand i o → IsCounterCommand j o' →
  ∃ t t', execAll [i, j] s = .next t ∧ execAll [j, i] s = .next t' ∧ t.counters = t'.counters ∧
    t.cause = 0 ∧ t'.cause = 0

/-- R42. -/
def Obligations.InternalValueWrittenByThreeCommands : Prop :=
  (∀ (i : Instr) (s t : State) (o : Obj), exec i s = .next t → (t.cnt o).internalValue ≠ (s.cnt o).internalValue →
    i = .resetOn o ∨ (∃ v, i = .setvOn o v) ∨ i = .clockOn o) ∧
  (∀ (ps : PerObj ObjParams) (s : State) (o : Obj),
    ((blockReset ps s).cnt o).internalValue.toNat = (perObjGet ps o).resetValue.toNat * 4)

/-- R41. -/
def Obligations.LastValueWrittenByClockOnly : Prop :=
  (∀ (i : Instr) (s t : State) (o : Obj), exec i s = .next t → (t.cnt o).lastValue ≠ (s.cnt o).lastValue →
    i = .clockOn o ∧ t.lastResult = some (.ok (.transition true))) ∧
  (∀ (ps : PerObj ObjParams) (s : State) (o : Obj),
    ((blockReset ps s).cnt o).lastValue = (perObjGet ps o).resetValue)

/-- R40. -/
def Obligations.ClocksToAddWrittenByMotionCommands : Prop :=
  (∀ (i : Instr) (s t : State) (o : Obj), exec i s = .next t → (t.cnt o).clocksToAdd ≠ (s.cnt o).clocksToAdd →
    (∃ hm, i = .hmstartOn o hm) ∨
    (i = .hmapplyOn o ∧ (t.cnt o).clocksToAdd.toNat + 1 = (s.cnt o).clocksToAdd.toNat)) ∧
  (∀ (o : Obj) (hm : Byte) (s : State), ∃ t, exec (.hmstartOn o hm) s = .next t ∧
    (t.cnt o).clocksToAdd.toNat = (if hm.toNat / 16 < 8 then hm.toNat / 16 else 240 + hm.toNat / 16)) ∧
  (∀ (o : Obj) (s : State), (s.cnt o).clocksToAdd ≠ 0 → ∃ t, exec (.hmapplyOn o) s = .next t ∧
    (t.cnt o).clocksToAdd.toNat + 1 = (s.cnt o).clocksToAdd.toNat) ∧
  (∀ (ps : PerObj ObjParams) (s : State) (o : Obj), ((blockReset ps s).cnt o).clocksToAdd = 0)

/-- R37: written by NEW only. -/
def Obligations.ConstantsOfAnInstanceNeverChange : Prop :=
  ∀ (i : Instr) (s t : State) (o : Obj), exec i s = .next t →
  (t.cnt o).period = (s.cnt o).period ∧ (t.cnt o).resetValue = (s.cnt o).resetValue

/-! ### Decoding and encoding (30_encoding.md) -/

/-- Decode and encode agree, first direction (all constructors). -/
def Obligations.DecodeOfEncodeIsTheInstruction : Prop :=
  ∀ i : Instr, decode (encode i) = .ok i

/-- Decode and encode agree, second direction (R93: "exactly one command"). -/
def Obligations.EncodeOfDecodeIsTheWord : Prop :=
  ∀ (w : Word) (i : Instr), decode w = .ok i → encode i = w

/-- R92, with the fields read off the number of the word. -/
def Obligations.FaultingWordsAreTheReservedClasses : Prop :=
  ∀ w : Word,
  (decode w = .error .illegalCommand ↔
    (w.toNat / 0x8000 = 0 ∧ w.toNat / 16 % 1024 ≠ 0) ∨
    (w.toNat / 0x8000 = 1 ∧
      (w.toNat / 0x800 % 2 = 1 ∨ 6 ≤ w.toNat / 0x1000 % 8 ∨ 5 ≤ w.toNat / 0x100 % 8 ∨
        (w.toNat / 0x1000 % 8 ∈ [0, 1, 3, 5] ∧ w.toNat % 256 ≠ 0)))) ∧
  (decode w = .error .invalidAddressingMode ↔
    w.toNat / 0x8000 = 0 ∧ w.toNat / 16 % 1024 = 0 ∧ 13 ≤ w.toNat % 16) ∧
  decode w ≠ .error .counterDomain

/-- A sanity statement on words of R95 and of the vectors. -/
def Obligations.SampleWordsDecodeAsWritten : Prop :=
  decode 0x000B#16 = .ok .resolveIzy ∧ decode 0x400C#16 = .ok .nbytesRel ∧ decode 0x8300#16 = .ok .resetM1 ∧
  decode 0x9400#16 = .ok .valueBl ∧ decode 0xA028#16 = .ok (.setvP0 0x28) ∧ decode 0xB100#16 = .ok .clockP1 ∧
  decode 0xC47F#16 = .ok (.hmstartBl 0x7F) ∧ decode 0xD200#16 = .ok .hmapplyM0

/-! ### A step, faults and reset (60_exceptions.md, 70_reset_and_hazards.md) -/

/-- Derived: the model's step (log 1, log 4) around R94, R195 and R224. -/
def Obligations.StepRunsTheDecodedCommand : Prop :=
  ∀ (s : State) (w : Word) (rest : List HostInput) (i : Instr),
  s.inputs = .command w :: rest → s.cause = 0 → decode w = .ok i →
  (∀ m, i.resolveMode = some m → s.processor.pcWritten = true ∧
    (m ∈ [AddrMode.absoluteX, .zeroPageX, .indexedIndirect] → s.processor.xWritten = true) ∧
    (m ∈ [AddrMode.absoluteY, .zeroPageY, .indirectIndexed] → s.processor.yWritten = true)) →
  step s = exec i { s with inputs := rest, trace := s.trace ++ [.input (.command w)] }

/-- R196 with the codes of R190, for each of the three faults. -/
def Obligations.FaultingCommandEntersItsFault : Prop :=
  ∀ (s : State) (w : Word) (rest : List HostInput) (c : Cause), s.inputs = .command w :: rest → s.cause = 0 →
  (decode w = .error c ∨
    (c = .counterDomain ∧ ∃ o v, decode w = .ok (.setvOn o v) ∧ (s.cnt o).period.toNat ≤ v.toNat)) →
  ∃ (t : State) (code : Byte), step s = .next t ∧ t.halted = true ∧
    (c = .invalidAddressingMode → code = 0x01) ∧ (c = .illegalCommand → code = 0x02) ∧
    (c = .counterDomain → code = 0x03) ∧
    t = { s with
      inputs := rest, fault := code, faultInfo := w,
      trace := s.trace ++ [.input (.command w), .returned (.err c)] }

/-- R128, R129, and R114 for NBYTES. -/
def Obligations.InvalidModeIsNeverDefaulted : Prop :=
  ∀ w ∈ [0x000D#16, 0x000E#16, 0x000F#16, 0x400D#16, 0x400E#16, 0x400F#16],
  ∀ (s : State) (rest : List HostInput), s.inputs = .command w :: rest → s.cause = 0 →
  step s = .next { s with
    inputs := rest, fault := 0x01#8, faultInfo := w,
    trace := s.trace ++ [.input (.command w), .returned (.err .invalidAddressingMode)] }

/-- R195: IllegalCommand before InvalidAddressingMode. -/
def Obligations.MalformedWordOutranksInvalidMode : Prop :=
  ∀ (w : Word) (s : State) (rest : List HostInput), s.inputs = .command w :: rest → s.cause = 0 →
  w.toNat < 0x8000 → w.toNat / 16 % 1024 ≠ 0 →
  ∃ t, step s = .next t ∧ t.fault = 0x02#8 ∧ t.faultInfo = w ∧ t.lastResult = some (.err .illegalCommand)

/-- The second sentence of R197. -/
def Obligations.HaltedBlockTakesNoCommand : Prop :=
  ∀ (s : State) (i : HostInput) (rest : List HostInput), s.inputs = i :: rest → s.cause ≠ 0 →
  ((∃ w, i = .command w) ∨ (∃ o, i = .motion o)) → step s = .fault .halted

/-- R197's last sentence and R44: only block reset clears FAULT. -/
def Obligations.OnlyResetLeavesTheHaltedState : Prop :=
  ∀ s t : State, s.cause ≠ 0 → step s = .next t →
  (∃ ps rest, s.inputs = .rst ps :: rest) ∨
  (t.fault = s.fault ∧ t.faultInfo = s.faultInfo ∧ t.counters = s.counters ∧
    ∃ i, t.trace = s.trace ++ [.input i])

/-- R44 ("only fault entry sets it, and only block reset clears it") and R45. -/
def Obligations.FaultWrittenOnlyByFaultEntry : Prop :=
  ∀ s t : State, step s = .next t → (t.fault ≠ s.fault ∨ t.faultInfo ≠ s.faultInfo) →
  (∃ ps rest, s.inputs = .rst ps :: rest ∧ t.fault = 0 ∧ t.faultInfo = 0) ∨
  (∃ w rest c, s.inputs = .command w :: rest ∧ t.lastResult = some (.err c) ∧ t.faultInfo = w ∧
    t.fault = (causeCode c).zeroExtend 8 ∧ t.cause ≠ 0)

/-- R220 with NEW (R151). That RST leaves the host's own side alone is the model's reading (log 11). -/
def Obligations.BlockResetConstructsEveryInstance : Prop :=
  ∀ (s : State) (ps : PerObj ObjParams) (rest : List HostInput), s.inputs = .rst ps :: rest →
  (∀ o, 1 ≤ (perObjGet ps o).period.toNat ∧ (perObjGet ps o).resetValue.toNat ≤ 39 ∧
    (perObjGet ps o).resetValue.toNat < (perObjGet ps o).period.toNat) →
  ∃ t : State, step s = .next t ∧ t.halted = false ∧
    t = { s with inputs := rest, trace := s.trace ++ [.input (.rst ps)], fault := 0, faultInfo := 0,
                 counters := t.counters } ∧
    ∀ o, (t.cnt o).period = (perObjGet ps o).period ∧ (t.cnt o).resetValue = (perObjGet ps o).resetValue ∧
      (t.cnt o).internalValue.toNat = (perObjGet ps o).resetValue.toNat * 4 ∧
      (t.cnt o).lastValue = (perObjGet ps o).resetValue ∧ (t.cnt o).clocksToAdd = 0

/-- R151: "the model refuses to construct it". -/
def Obligations.IllegalConfigurationIsRefused : Prop :=
  ∀ (s : State) (ps : PerObj ObjParams) (rest : List HostInput) (o : Obj), s.inputs = .rst ps :: rest →
  ((perObjGet ps o).period.toNat = 0 ∨ 39 < (perObjGet ps o).resetValue.toNat ∨
    (perObjGet ps o).period.toNat ≤ (perObjGet ps o).resetValue.toNat) →
  step s = .refused .configurationRefused

/-- R224 item 3 as D25 words it (log 4). -/
def Obligations.ResolveBeforeProcessorStateStops : Prop :=
  ∀ (s : State) (w : Word) (rest : List HostInput) (i : Instr) (m : AddrMode),
  s.inputs = .command w :: rest → s.cause = 0 → decode w = .ok i → i.resolveMode = some m →
  (s.processor.pcWritten = false ∨
    (m ∈ [AddrMode.absoluteX, .zeroPageX, .indexedIndirect] ∧ s.processor.xWritten = false) ∨
    (m ∈ [AddrMode.absoluteY, .zeroPageY, .indirectIndexed] ∧ s.processor.yWritten = false)) →
  step s = .fault .processorStateUnset

/-- R48, for every value of the open parameters (log 5). The rows for PC, X and Y name no value and are not stated. -/
def Obligations.ResetStateIsTheTableOfR48 : Prop :=
  (∀ o, (State.reset.cnt o).period = (Config.objParams o).period ∧
    (State.reset.cnt o).resetValue = (Config.objParams o).resetValue ∧
    (State.reset.cnt o).internalValue.toNat = (Config.objParams o).resetValue.toNat * 4 ∧
    (State.reset.cnt o).lastValue = (Config.objParams o).resetValue ∧ (State.reset.cnt o).clocksToAdd = 0 ∧
    1 ≤ (Config.objParams o).period.toNat ∧ (Config.objParams o).resetValue.toNat ≤ 39 ∧
    (Config.objParams o).resetValue.toNat < (Config.objParams o).period.toNat) ∧
  State.reset.readFault = 0 ∧ State.reset.readFaultInfo = 0 ∧ State.reset.halted = false

/-! ### The bus and the host's side (20_memory.md) -/

/-- R62 ("a draw that may depend on every earlier event", unless a claim "assumes a memory image") and R73's first consequence. The
image with its canonical form and the oracle as one function of the events are the model's choice (log 6), as is that reading a
listed address has no side effect (log 7). Of an unlisted address's answer after a host write nothing is said: the history is
longer then. -/
def Obligations.BusAnswersTheImageElseADraw : Prop :=
  ∀ s : State,
  (∀ reads : List (Word × Byte), (∀ ab ∈ reads, Memory.lookup s.memory ab.1.toNat = some ab.2) → Answers s reads) ∧
  (∀ (reads : List (Word × Byte)) (a : Word) (b b' : Byte), Answers s reads → (a, b) ∈ reads →
    Memory.lookup s.memory a.toNat = some b' → b = b') ∧
  (∀ (before : List (Word × Byte)) (a : Word) (b : Byte), Memory.lookup s.memory a.toNat = none →
    (Answers s (before ++ [(a, b)]) ↔
      Answers s before ∧ b = Config.busRead (s.trace ++ before.map (fun ab => .read ab.1 ab.2)) a)) ∧
  (∀ (a : Word) (b : Byte) (rest : List HostInput), s.inputs = .writeMem a b :: rest → Memory.wf s.memory = true →
    ∃ t : State, step s = .next t ∧ t.busAnswer a = b ∧
      (∀ a' : Nat, a' ≠ a.toNat → Memory.lookup t.memory a' = Memory.lookup s.memory a') ∧
      t = { s with inputs := rest, memory := t.memory, trace := s.trace ++ [.input (.writeMem a b)] })

/-- R60: "It never writes". -/
def Obligations.OnlyHostWritesMemory : Prop :=
  ∀ s t : State, step s = .next t → t.memory ≠ s.memory → ∃ a b rest, s.inputs = .writeMem a b :: rest

/-- R62: each read is an event, recorded in issue order; R18: each command returns one result. That the history holds the inputs
taken and the results returned beside the reads is the model's choice (log 8, DESIGN CHOICE), and so are the inputs (log 1, log 19). -/
def Obligations.HistoryIsNeverRewritten : Prop :=
  ∀ s t : State, step s = .next t →
  ∃ (i : HostInput) (rest more : List HostInput) (reads : List (Word × Byte)),
    s.inputs = i :: rest ∧ t.inputs = more ++ rest ∧ ((∀ o, i ≠ .motion o) → more = []) ∧
    ((∃ r, ((∃ w, i = .command w) ∨ ((∃ o, i = .motion o) ∧ reads = [])) ∧
        t.trace = s.trace ++ [.input i] ++ reads.map (fun ab => .read ab.1 ab.2) ++ [.returned r]) ∨
      ((∀ w, i ≠ .command w) ∧ (∀ o, i ≠ .motion o) ∧ t.trace = s.trace ++ [.input i]))

/-- Derived: ProcessorState is the host's (R30, R33, R224); the inputs are the model's (log 1). -/
def Obligations.HostWritesProcessorState : Prop :=
  ∀ (s : State) (rest : List HostInput),
  (∀ v, s.inputs = .writePC v :: rest →
    step s = .next { s with inputs := rest, trace := s.trace ++ [.input (.writePC v)],
                            processor := { s.processor with pc := v, pcWritten := true } }) ∧
  (∀ v, s.inputs = .writeX v :: rest →
    step s = .next { s with inputs := rest, trace := s.trace ++ [.input (.writeX v)],
                            processor := { s.processor with x := v, xWritten := true } }) ∧
  (∀ v, s.inputs = .writeY v :: rest →
    step s = .next { s with inputs := rest, trace := s.trace ++ [.input (.writeY v)],
                            processor := { s.processor with y := v, yWritten := true } })

/-! ### The invariant -/

/-- R38 ("always") over whole steps, with R37's ranges and R44's reserved bits; the canonical form is the model's (log 6). -/
def Obligations.EveryStepKeepsTheInvariant : Prop :=
  ∀ s t : State, s.Inv → step s = .next t → t.Inv

/-- The invariant's base case. -/
def Obligations.ResetStateHasTheInvariant : Prop :=
  State.reset.Inv ∧ ∀ ps : PerObj ObjParams, ps.paramsWf = true → (State.resetWith ps).Inv

/-- R38 over commands, with the other ranges of R37, and over NEW within its domain. -/
def Obligations.CounterInvariantKept : Prop :=
  (∀ (i : Instr) (s t : State), (∀ o, (s.cnt o).Inv) → exec i s = .next t → ∀ o, (t.cnt o).Inv) ∧
  (∀ p : ObjParams, p.wf = true → (Counter.new p).Inv)
end

