-- ==== Sys2Proof/Laws/Objects.lean ====
section
/-! SUPPORT. Reading and writing one object's part of a family of five. -/

namespace Sys2Proof.Machine

variable {α : Type}

@[simp] theorem perObjGet_set_same (t : PerObj α) (o : Obj) (x : α) : perObjGet (perObjSet t o x) o = x := by
  cases o <;> rfl

@[simp] theorem perObjGet_set_ne (t : PerObj α) {o o' : Obj} (x : α) (h : o' ≠ o) :
    perObjGet (perObjSet t o x) o' = perObjGet t o' := by
  cases o <;> cases o' <;> first | rfl | exact absurd rfl h

theorem perObj_ext {t u : PerObj α} (h : ∀ o, perObjGet t o = perObjGet u o) : t = u := by
  obtain ⟨a, b, c, d, e⟩ := t
  obtain ⟨a', b', c', d', e'⟩ := u
  have h0 := h .p0; have h1 := h .p1; have h2 := h .m0; have h3 := h .m1; have h4 := h .bl
  simp only [perObjGet] at h0 h1 h2 h3 h4
  rw [h0, h1, h2, h3, h4]

@[simp] theorem perObjSet_get (t : PerObj α) (o : Obj) : perObjSet t o (perObjGet t o) = t := by
  cases o <;> rfl

/-- Writes to two different objects commute. -/
theorem perObjSet_comm (t : PerObj α) {o o' : Obj} (x y : α) (h : o ≠ o') :
    perObjSet (perObjSet t o x) o' y = perObjSet (perObjSet t o' y) o x := by
  cases o <;> cases o' <;> first | rfl | exact absurd rfl h

@[simp] theorem perObjGet_newCounters (ps : PerObj ObjParams) (o : Obj) :
    perObjGet (newCounters ps) o = Counter.new (perObjGet ps o) := by
  cases o <;> rfl

/-- The construction domain holds of every object exactly when it holds of each. -/
theorem paramsWf_iff (ps : PerObj ObjParams) : ps.paramsWf = true ↔ ∀ o, (perObjGet ps o).wf = true := by
  constructor
  · intro h o
    simp only [PerObj.paramsWf, Bool.and_eq_true] at h
    cases o <;> simp only [perObjGet] <;> tauto
  · intro h
    have h0 := h .p0; have h1 := h .p1; have h2 := h .m0; have h3 := h .m1; have h4 := h .bl
    simp only [perObjGet] at h0 h1 h2 h3 h4
    simp [PerObj.paramsWf, h0, h1, h2, h3, h4]

theorem ObjParams.wf_iff (p : ObjParams) :
    p.wf = true ↔ 1 ≤ p.period.toNat ∧ p.resetValue.toNat ≤ 39 ∧ p.resetValue.toNat < p.period.toNat := by
  simp [ObjParams.wf, ObjParams.periodOk, ObjParams.resetValueOk, ObjParams.resetBelowPeriod, and_assoc]

end Sys2Proof.Machine
end

