-- ==== Sys2Proof/Laws/Config.lean ====
section
/-! SUPPORT. The free parameters are in their domain, whatever they are (00_scope.md R13). -/

namespace Sys2Proof
open Machine

theorem Config.resetValue_le (o : Obj) : Config.resetValue o ≤ 39 := by
  unfold Config.resetValue
  omega

theorem Config.resetValue_lt_period (o : Obj) : Config.resetValue o < Config.period o := by
  unfold Config.period
  omega

theorem Config.period_le (o : Obj) : Config.period o ≤ 255 := by
  have h := Config.resetValue_le o
  have hm := Nat.mod_lt (Config.periodChoice o) (show 255 - Config.resetValue o > 0 by omega)
  unfold Config.period
  omega

theorem Config.objParams_wf (o : Obj) : (Config.objParams o).wf = true := by
  have h1 := Config.resetValue_le o
  have h2 := Config.resetValue_lt_period o
  have h3 := Config.period_le o
  have hp : (Config.objParams o).period.toNat = Config.period o := by
    simp only [Config.objParams, BitVec.toNat_ofNat]; omega
  have hr : (Config.objParams o).resetValue.toNat = Config.resetValue o := by
    simp only [Config.objParams, BitVec.toNat_ofNat]; omega
  rw [ObjParams.wf_iff, hp, hr]
  omega

@[simp] theorem Config.params_get (o : Obj) : perObjGet Config.params o = Config.objParams o := by
  cases o <;> rfl

theorem Config.params_wf : Config.params.paramsWf = true :=
  (paramsWf_iff _).2 fun o => by rw [Config.params_get]; exact Config.objParams_wf o

/-- Every reset value of the domain is one the free parameter may have, and every period above it: nothing of R13's domain is
shut out by the way the parameters are written. -/
theorem Config.domain_covered (rv per : Nat) (h1 : rv ≤ 39) (h2 : rv < per) (h3 : per ≤ 255) :
    ∃ a b : Nat, a % 40 = rv ∧ rv + b % (255 - rv) + 1 = per := by
  refine ⟨rv, per - rv - 1, by omega, ?_⟩
  rw [Nat.mod_eq_of_lt (by omega)]
  omega

end Sys2Proof
end

