-- ==== Sys2Proof/Laws/State.lean ====
section
/-! SUPPORT. One lemma per field per update of State, true by rfl, and what the updates do to one counter instance. -/

namespace Sys2Proof.Machine

variable (s : State)

@[simp] theorem setCnt_processor (o : Obj) (c : Counter) : (s.setCnt o c).processor = s.processor := rfl
@[simp] theorem setCnt_counters (o : Obj) (c : Counter) : (s.setCnt o c).counters = perObjSet s.counters o c := rfl
@[simp] theorem setCnt_fault (o : Obj) (c : Counter) : (s.setCnt o c).fault = s.fault := rfl
@[simp] theorem setCnt_faultInfo (o : Obj) (c : Counter) : (s.setCnt o c).faultInfo = s.faultInfo := rfl
@[simp] theorem setCnt_memory (o : Obj) (c : Counter) : (s.setCnt o c).memory = s.memory := rfl
@[simp] theorem setCnt_inputs (o : Obj) (c : Counter) : (s.setCnt o c).inputs = s.inputs := rfl
@[simp] theorem setCnt_trace (o : Obj) (c : Counter) : (s.setCnt o c).trace = s.trace := rfl

@[simp] theorem record_processor (e : Event) : (s.record e).processor = s.processor := rfl
@[simp] theorem record_counters (e : Event) : (s.record e).counters = s.counters := rfl
@[simp] theorem record_fault (e : Event) : (s.record e).fault = s.fault := rfl
@[simp] theorem record_faultInfo (e : Event) : (s.record e).faultInfo = s.faultInfo := rfl
@[simp] theorem record_memory (e : Event) : (s.record e).memory = s.memory := rfl
@[simp] theorem record_inputs (e : Event) : (s.record e).inputs = s.inputs := rfl
@[simp] theorem record_trace (e : Event) : (s.record e).trace = s.trace ++ [e] := rfl

@[simp] theorem ret_processor (r : Result) : (s.ret r).processor = s.processor := rfl
@[simp] theorem ret_counters (r : Result) : (s.ret r).counters = s.counters := rfl
@[simp] theorem ret_fault (r : Result) : (s.ret r).fault = s.fault := rfl
@[simp] theorem ret_faultInfo (r : Result) : (s.ret r).faultInfo = s.faultInfo := rfl
@[simp] theorem ret_memory (r : Result) : (s.ret r).memory = s.memory := rfl
@[simp] theorem ret_inputs (r : Result) : (s.ret r).inputs = s.inputs := rfl
@[simp] theorem ret_trace (r : Result) : (s.ret r).trace = s.trace ++ [.returned r] := rfl

@[simp] theorem enterFault_processor (c : Cause) (w : Word) : (enterFault c w s).processor = s.processor := rfl
@[simp] theorem enterFault_counters (c : Cause) (w : Word) : (enterFault c w s).counters = s.counters := rfl
@[simp] theorem enterFault_fault (c : Cause) (w : Word) : (enterFault c w s).fault = (causeCode c).zeroExtend 8 := rfl
@[simp] theorem enterFault_faultInfo (c : Cause) (w : Word) : (enterFault c w s).faultInfo = w := rfl
@[simp] theorem enterFault_memory (c : Cause) (w : Word) : (enterFault c w s).memory = s.memory := rfl
@[simp] theorem enterFault_inputs (c : Cause) (w : Word) : (enterFault c w s).inputs = s.inputs := rfl
@[simp] theorem enterFault_trace (c : Cause) (w : Word) : (enterFault c w s).trace = s.trace ++ [.returned (.err c)] := rfl

@[simp] theorem blockReset_processor (ps : PerObj ObjParams) : (blockReset ps s).processor = s.processor := rfl
@[simp] theorem blockReset_counters (ps : PerObj ObjParams) : (blockReset ps s).counters = newCounters ps := rfl
@[simp] theorem blockReset_fault (ps : PerObj ObjParams) : (blockReset ps s).fault = 0x00#8 := rfl
@[simp] theorem blockReset_faultInfo (ps : PerObj ObjParams) : (blockReset ps s).faultInfo = 0x0000#16 := rfl
@[simp] theorem blockReset_memory (ps : PerObj ObjParams) : (blockReset ps s).memory = s.memory := rfl
@[simp] theorem blockReset_inputs (ps : PerObj ObjParams) : (blockReset ps s).inputs = s.inputs := rfl
@[simp] theorem blockReset_trace (ps : PerObj ObjParams) : (blockReset ps s).trace = s.trace := rfl

@[simp] theorem hostWritePC_processor (v : Word) : (hostWritePC v s).processor = { s.processor with pc := v, pcWritten := true } := rfl
@[simp] theorem hostWritePC_counters (v : Word) : (hostWritePC v s).counters = s.counters := rfl
@[simp] theorem hostWritePC_fault (v : Word) : (hostWritePC v s).fault = s.fault := rfl
@[simp] theorem hostWritePC_faultInfo (v : Word) : (hostWritePC v s).faultInfo = s.faultInfo := rfl
@[simp] theorem hostWritePC_memory (v : Word) : (hostWritePC v s).memory = s.memory := rfl
@[simp] theorem hostWritePC_inputs (v : Word) : (hostWritePC v s).inputs = s.inputs := rfl
@[simp] theorem hostWritePC_trace (v : Word) : (hostWritePC v s).trace = s.trace := rfl

@[simp] theorem hostWriteX_processor (v : Byte) : (hostWriteX v s).processor = { s.processor with x := v, xWritten := true } := rfl
@[simp] theorem hostWriteX_counters (v : Byte) : (hostWriteX v s).counters = s.counters := rfl
@[simp] theorem hostWriteX_fault (v : Byte) : (hostWriteX v s).fault = s.fault := rfl
@[simp] theorem hostWriteX_faultInfo (v : Byte) : (hostWriteX v s).faultInfo = s.faultInfo := rfl
@[simp] theorem hostWriteX_memory (v : Byte) : (hostWriteX v s).memory = s.memory := rfl
@[simp] theorem hostWriteX_inputs (v : Byte) : (hostWriteX v s).inputs = s.inputs := rfl
@[simp] theorem hostWriteX_trace (v : Byte) : (hostWriteX v s).trace = s.trace := rfl

@[simp] theorem hostWriteY_processor (v : Byte) : (hostWriteY v s).processor = { s.processor with y := v, yWritten := true } := rfl
@[simp] theorem hostWriteY_counters (v : Byte) : (hostWriteY v s).counters = s.counters := rfl
@[simp] theorem hostWriteY_fault (v : Byte) : (hostWriteY v s).fault = s.fault := rfl
@[simp] theorem hostWriteY_faultInfo (v : Byte) : (hostWriteY v s).faultInfo = s.faultInfo := rfl
@[simp] theorem hostWriteY_memory (v : Byte) : (hostWriteY v s).memory = s.memory := rfl
@[simp] theorem hostWriteY_inputs (v : Byte) : (hostWriteY v s).inputs = s.inputs := rfl
@[simp] theorem hostWriteY_trace (v : Byte) : (hostWriteY v s).trace = s.trace := rfl

@[simp] theorem hostWriteMem_processor (a : Word) (b : Byte) : (hostWriteMem a b s).processor = s.processor := rfl
@[simp] theorem hostWriteMem_counters (a : Word) (b : Byte) : (hostWriteMem a b s).counters = s.counters := rfl
@[simp] theorem hostWriteMem_fault (a : Word) (b : Byte) : (hostWriteMem a b s).fault = s.fault := rfl
@[simp] theorem hostWriteMem_faultInfo (a : Word) (b : Byte) : (hostWriteMem a b s).faultInfo = s.faultInfo := rfl
@[simp] theorem hostWriteMem_memory (a : Word) (b : Byte) : (hostWriteMem a b s).memory = Memory.write s.memory a.toNat b := rfl
@[simp] theorem hostWriteMem_inputs (a : Word) (b : Byte) : (hostWriteMem a b s).inputs = s.inputs := rfl
@[simp] theorem hostWriteMem_trace (a : Word) (b : Byte) : (hostWriteMem a b s).trace = s.trace := rfl

@[simp] theorem followMotion_processor (hp : HmoveProtocol) (o : Obj) : (followMotion hp o s).processor = s.processor := rfl
@[simp] theorem followMotion_counters (hp : HmoveProtocol) (o : Obj) : (followMotion hp o s).counters = s.counters := rfl
@[simp] theorem followMotion_fault (hp : HmoveProtocol) (o : Obj) : (followMotion hp o s).fault = s.fault := rfl
@[simp] theorem followMotion_faultInfo (hp : HmoveProtocol) (o : Obj) : (followMotion hp o s).faultInfo = s.faultInfo := rfl
@[simp] theorem followMotion_memory (hp : HmoveProtocol) (o : Obj) : (followMotion hp o s).memory = s.memory := rfl
@[simp] theorem followMotion_inputs (hp : HmoveProtocol) (o : Obj) : (followMotion hp o s).inputs = motionInputs hp s.trace o s.answeredCont ++ s.inputs := rfl
@[simp] theorem followMotion_trace (hp : HmoveProtocol) (o : Obj) : (followMotion hp o s).trace = s.trace := rfl

@[simp] theorem afterInput_processor (i : HostInput) (rest : List HostInput) : (s.afterInput i rest).processor = s.processor := rfl
@[simp] theorem afterInput_counters (i : HostInput) (rest : List HostInput) : (s.afterInput i rest).counters = s.counters := rfl
@[simp] theorem afterInput_fault (i : HostInput) (rest : List HostInput) : (s.afterInput i rest).fault = s.fault := rfl
@[simp] theorem afterInput_faultInfo (i : HostInput) (rest : List HostInput) : (s.afterInput i rest).faultInfo = s.faultInfo := rfl
@[simp] theorem afterInput_memory (i : HostInput) (rest : List HostInput) : (s.afterInput i rest).memory = s.memory := rfl
@[simp] theorem afterInput_inputs (i : HostInput) (rest : List HostInput) : (s.afterInput i rest).inputs = rest := rfl
@[simp] theorem afterInput_trace (i : HostInput) (rest : List HostInput) : (s.afterInput i rest).trace = s.trace ++ [.input i] := rfl

@[simp] theorem observed_processor (reads : List (Word × Byte)) (r : Result) : (s.observed reads r).processor = s.processor := rfl
@[simp] theorem observed_counters (reads : List (Word × Byte)) (r : Result) : (s.observed reads r).counters = s.counters := rfl
@[simp] theorem observed_fault (reads : List (Word × Byte)) (r : Result) : (s.observed reads r).fault = s.fault := rfl
@[simp] theorem observed_faultInfo (reads : List (Word × Byte)) (r : Result) : (s.observed reads r).faultInfo = s.faultInfo := rfl
@[simp] theorem observed_memory (reads : List (Word × Byte)) (r : Result) : (s.observed reads r).memory = s.memory := rfl
@[simp] theorem observed_inputs (reads : List (Word × Byte)) (r : Result) : (s.observed reads r).inputs = s.inputs := rfl
@[simp] theorem observed_trace (reads : List (Word × Byte)) (r : Result) : (s.observed reads r).trace = s.trace ++ reads.map (fun ab => .read ab.1 ab.2) ++ [.returned r] := rfl

@[simp] theorem record_cnt (e : Event) (o : Obj) : (s.record e).cnt o = s.cnt o := rfl
@[simp] theorem ret_cnt (r : Result) (o : Obj) : (s.ret r).cnt o = s.cnt o := rfl
@[simp] theorem enterFault_cnt (c : Cause) (w : Word) (o : Obj) : (enterFault c w s).cnt o = s.cnt o := rfl
@[simp] theorem hostWritePC_cnt (v : Word) (o : Obj) : (hostWritePC v s).cnt o = s.cnt o := rfl
@[simp] theorem hostWriteX_cnt (v : Byte) (o : Obj) : (hostWriteX v s).cnt o = s.cnt o := rfl
@[simp] theorem hostWriteY_cnt (v : Byte) (o : Obj) : (hostWriteY v s).cnt o = s.cnt o := rfl
@[simp] theorem hostWriteMem_cnt (a : Word) (b : Byte) (o : Obj) : (hostWriteMem a b s).cnt o = s.cnt o := rfl
@[simp] theorem followMotion_cnt (hp : HmoveProtocol) (o o' : Obj) : (followMotion hp o s).cnt o' = s.cnt o' := rfl
@[simp] theorem afterInput_cnt (i : HostInput) (rest : List HostInput) (o : Obj) : (s.afterInput i rest).cnt o = s.cnt o := rfl
@[simp] theorem observed_cnt (reads : List (Word × Byte)) (r : Result) (o : Obj) : (s.observed reads r).cnt o = s.cnt o := rfl

@[simp] theorem setCnt_cnt_same (o : Obj) (c : Counter) : (s.setCnt o c).cnt o = c :=
  perObjGet_set_same s.counters o c

@[simp] theorem setCnt_cnt_ne {o o' : Obj} (c : Counter) (h : o' ≠ o) : (s.setCnt o c).cnt o' = s.cnt o' :=
  perObjGet_set_ne s.counters c h

@[simp] theorem setCnt_cnt_self (o : Obj) : s.setCnt o (s.cnt o) = s := by
  simp [State.setCnt, State.cnt]

@[simp] theorem blockReset_cnt (ps : PerObj ObjParams) (o : Obj) :
    (blockReset ps s).cnt o = Counter.new (perObjGet ps o) :=
  perObjGet_newCounters ps o

@[simp] theorem resetWith_cnt (ps : PerObj ObjParams) (o : Obj) :
    (State.resetWith ps).cnt o = Counter.new (perObjGet ps o) :=
  perObjGet_newCounters ps o

@[simp] theorem ret_lastResult (r : Result) : (s.ret r).lastResult = some r := by
  simp [State.lastResult]

@[simp] theorem ret_answeredCont (cont : Bool) : (s.ret (.ok (.motion cont))).answeredCont = cont := by
  cases cont <;> simp [State.answeredCont]

@[simp] theorem observed_lastResult (reads : List (Word × Byte)) (r : Result) :
    (s.observed reads r).lastResult = some r := by
  simp [State.lastResult, State.observed]

@[simp] theorem enterFault_lastResult (c : Cause) (w : Word) : (enterFault c w s).lastResult = some (.err c) := by
  simp [State.lastResult]

/-- The block is halted exactly when CAUSE is not 0 (10_state.md R44). -/
theorem halted_iff : s.halted = true ↔ s.cause ≠ 0 := by
  simp [State.halted]

theorem not_halted_of_cause {s : State} (h : s.cause = 0) : s.halted = false := by
  simp [State.halted, h]

/-- Every fault code is a CAUSE that is not 0 (60_exceptions.md R190). -/
theorem causeCode_ne_zero (c : Cause) : causeCode c ≠ 0 := by cases c <;> decide

@[simp] theorem enterFault_cause (c : Cause) (w : Word) : (enterFault c w s).cause = causeCode c := by
  cases c <;> rfl

@[simp] theorem enterFault_halted (c : Cause) (w : Word) : (enterFault c w s).halted = true := by
  rw [halted_iff, enterFault_cause]
  exact causeCode_ne_zero c

end Sys2Proof.Machine
end

