-- ==== Sys2Proof/Laws/Counter.lean ====
section
/-! SUPPORT. What each counter operation does to one instance, in numbers, and that each keeps the instance legal
(10_state.md R38). -/

namespace Sys2Proof.Machine

/-- NEW makes a legal instance (41_position_counter.md R151). -/
theorem Counter.new_inv {p : ObjParams} (h : p.wf = true) : (Counter.new p).Inv := by
  obtain ⟨h1, h2, h3⟩ := (ObjParams.wf_iff p).1 h
  have := p.period.isLt
  refine ⟨h1, h2, h3, ?_, h3⟩
  simp only [Counter.new, BitVec.toNat_ofNat]
  omega

theorem Counter.reset_internal (c : Counter) : c.reset.internalValue.toNat = c.resetValue.toNat * 4 := by
  have := c.resetValue.isLt
  simp only [Counter.reset, BitVec.toNat_ofNat]
  omega

theorem Counter.setValue_internal (c : Counter) (v : Byte) : (c.setValue v).internalValue.toNat = v.toNat * 4 := by
  have := v.isLt
  simp only [Counter.setValue, BitVec.toNat_ofNat]
  omega

theorem Counter.tick_internal {c : Counter} (h : c.Inv) :
    c.tick.internalValue.toNat = (c.internalValue.toNat + 1) % (c.period.toNat * 4) := by
  have h1 := h.1
  have := c.period.isLt
  have := Nat.mod_lt (c.internalValue.toNat + 1) (show c.period.toNat * 4 > 0 by omega)
  simp only [Counter.tick, BitVec.toNat_ofNat]
  omega

theorem Counter.tick_lt {c : Counter} (h : c.Inv) : c.tick.internalValue.toNat < c.period.toNat * 4 := by
  rw [Counter.tick_internal h]
  exact Nat.mod_lt _ (by have := h.1; omega)

/-- The position of an internal value below period*4 is that value div 4, below period (R39). -/
theorem Counter.position_toNat {c : Counter} (h : c.internalValue.toNat < c.period.toNat * 4) :
    c.position.toNat = c.internalValue.toNat / 4 ∧ c.position.toNat < c.period.toNat := by
  have := c.period.isLt
  simp only [Counter.position, BitVec.toNat_ofNat]
  omega

/-- After CLOCK last_value is the position, whether it changed or not. -/
theorem Counter.clock_eq (c : Counter) : c.clock = { c.tick with lastValue := c.tick.position } := by
  have h : (if c.clockTrans then c.tick.position else c.lastValue) = c.tick.position := by
    by_cases e : c.tick.position = c.lastValue <;> simp [Counter.clockTrans, transitioned, e]
  rw [Counter.clock, h]

@[simp] theorem Counter.clock_internal (c : Counter) : c.clock.internalValue = c.tick.internalValue := rfl
@[simp] theorem Counter.clock_period (c : Counter) : c.clock.period = c.period := rfl
@[simp] theorem Counter.clock_resetValue (c : Counter) : c.clock.resetValue = c.resetValue := rfl
@[simp] theorem Counter.clock_clocksToAdd (c : Counter) : c.clock.clocksToAdd = c.clocksToAdd := rfl
@[simp] theorem Counter.tick_period (c : Counter) : c.tick.period = c.period := rfl
@[simp] theorem Counter.clock_lastValue (c : Counter) : c.clock.lastValue = c.tick.position := by
  rw [Counter.clock_eq]

@[simp] theorem Counter.applyHmove_period (c : Counter) : c.applyHmove.period = c.period := rfl
@[simp] theorem Counter.applyHmove_resetValue (c : Counter) : c.applyHmove.resetValue = c.resetValue := rfl
@[simp] theorem Counter.applyHmove_internalValue (c : Counter) : c.applyHmove.internalValue = c.internalValue := rfl
@[simp] theorem Counter.applyHmove_lastValue (c : Counter) : c.applyHmove.lastValue = c.lastValue := rfl

theorem Counter.clockTrans_iff (c : Counter) : c.clockTrans = true ↔ c.tick.position ≠ c.lastValue := by
  simp [Counter.clockTrans, transitioned]

theorem Counter.reset_inv {c : Counter} (h : c.Inv) : c.reset.Inv := by
  obtain ⟨h1, h2, h3, -, h5⟩ := h
  refine ⟨h1, h2, h3, ?_, h5⟩
  rw [Counter.reset_internal]
  show c.resetValue.toNat * 4 < c.period.toNat * 4
  omega

theorem Counter.setValue_inv {c : Counter} (h : c.Inv) {v : Byte} (hv : v.toNat < c.period.toNat) :
    (c.setValue v).Inv := by
  obtain ⟨h1, h2, h3, -, h5⟩ := h
  refine ⟨h1, h2, h3, ?_, h5⟩
  rw [Counter.setValue_internal]
  show v.toNat * 4 < c.period.toNat * 4
  omega

theorem Counter.clock_inv {c : Counter} (h : c.Inv) : c.clock.Inv := by
  refine ⟨h.1, h.2.1, h.2.2.1, Counter.tick_lt h, ?_⟩
  rw [Counter.clock_lastValue]
  exact (Counter.position_toNat (Counter.tick_lt h)).2

theorem Counter.startHmove_inv {c : Counter} (h : c.Inv) (hm : Byte) : (c.startHmove hm).Inv := h

theorem Counter.applyHmove_inv {c : Counter} (h : c.Inv) : c.applyHmove.Inv := h

theorem Counter.applyHmove_count (c : Counter) :
    c.applyHmove.clocksToAdd.toNat = c.clocksToAdd.toNat - 1 := by
  simp only [Counter.applyHmove]
  split
  · rename_i h
    simp [h]
  · rename_i h
    have h' : c.clocksToAdd.toNat ≠ 0 := fun e => h (BitVec.eq_of_toNat_eq (by simpa using e))
    have := c.clocksToAdd.isLt
    rw [BitVec.toNat_sub]
    simp
    omega

theorem stillMoving_iff (b : Byte) : stillMoving b = true ↔ b.toNat ≠ 0 := by
  simp [stillMoving, BitVec.toNat_eq]

/-- The table of 30_encoding.md R89. -/
theorem motionCount_toNat (hm : Byte) :
    (motionCount hm).toNat = if hm.toNat / 16 < 8 then hm.toNat / 16 else 240 + hm.toNat / 16 := by
  revert hm
  decide +kernel

end Sys2Proof.Machine
end

