-- ==== Sys2Proof/Laws/Operands.lean ====
section
/-! SUPPORT. What the reads of a RESOLVE come to: under any answers of the bus, the bytes read and the history they leave.
`State.afterReads` is the state in which reads have been recorded and the command has not returned yet. -/

namespace Sys2Proof.Machine

/-- `s` with these reads in its history. -/
def State.afterReads (s : State) (reads : List (Word × Byte)) : State :=
  { s with trace := s.trace ++ reads.map (fun ab => .read ab.1 ab.2) }

theorem record_read (s : State) (a : Word) (b : Byte) : s.record (.read a b) = s.afterReads [(a, b)] := rfl

@[simp] theorem afterReads_nil (s : State) : s.afterReads [] = s := by
  simp [State.afterReads]

@[simp] theorem afterReads_afterReads (s : State) (r1 r2 : List (Word × Byte)) :
    (s.afterReads r1).afterReads r2 = s.afterReads (r1 ++ r2) := by
  simp [State.afterReads]

@[simp] theorem afterReads_ret (s : State) (reads : List (Word × Byte)) (r : Result) :
    (s.afterReads reads).ret r = s.observed reads r := rfl

@[simp] theorem ret_eq_observed (s : State) (r : Result) : s.observed [] r = s.ret r := by
  simp [State.observed, State.ret, State.record]

theorem returnAddress_afterReads (s : State) (reads : List (Word × Byte)) (ea : Word) (extra : Bool) :
    returnAddress ea extra (s.afterReads reads) = s.observed reads (.ok (.resolved ea extra)) := rfl

theorem returnAddress_eq (s : State) (ea : Word) (extra : Bool) :
    returnAddress ea extra s = s.observed [] (.ok (.resolved ea extra)) := by
  simp [returnAddress]

/-- Reads one after another are reads of the first part and then of the rest. -/
theorem answers_append (s : State) (r1 r2 : List (Word × Byte)) :
    Answers s (r1 ++ r2) ↔ Answers s r1 ∧ Answers (s.afterReads r1) r2 := by
  induction r1 generalizing s with
  | nil => simp [Answers]
  | cons ab rest ih =>
    obtain ⟨a, b⟩ := ab
    simp only [List.cons_append, Answers, ih, record_read, afterReads_afterReads]
    simp [and_assoc]

/-- One read under a given answer. -/
theorem memRead_of_answer {s : State} {a : Word} {b : Byte} (h : s.busAnswer a = b) :
    memRead a s = (b, s.afterReads [(a, b)]) := by
  subst h
  rfl

/-- Every read is answered (20_memory.md R60). -/
theorem memRead_answers (a : Word) (s : State) :
    ∃ b, s.busAnswer a = b ∧ memRead a s = (b, s.afterReads [(a, b)]) :=
  ⟨_, rfl, rfl⟩

/-- The operand addresses, from the advanced PC (40_address_resolver.md R111): the last operand byte lies just before PC. -/
theorem operandAddr_two {m : AddrMode} (h : nBytes m = 2) (s : State) : operandAddr m s = s.pc - 1 := by
  simp only [operandAddr, pcStart, add16, sub16, h]
  generalize s.pc = p
  bv_omega

theorem operandAddr_three {m : AddrMode} (h : nBytes m = 3) (s : State) :
    add16 (pcStart m s) 1 = s.pc - 2 ∧ add16 (pcStart m s) 2 = s.pc - 1 := by
  simp only [pcStart, add16, sub16, h]
  generalize s.pc = p
  constructor <;> bv_omega

/-- A word is its high byte and its low byte. -/
theorem word_split (q : Word) : q = q.extractLsb' 8 8 ++ q.setWidth 8 := by
  apply BitVec.eq_of_toNat_eq
  simp only [BitVec.toNat_append, BitVec.extractLsb'_toNat, BitVec.toNat_setWidth]
  rw [← Nat.shiftLeft_add_eq_or_of_lt (by omega), Nat.shiftLeft_eq, Nat.shiftRight_eq_div_pow]
  omega

theorem toNat_word_append (hi lo : Byte) : (hi ++ lo).toNat = hi.toNat * 256 + lo.toNat := by
  rw [BitVec.toNat_append, ← Nat.shiftLeft_add_eq_or_of_lt lo.isLt, Nat.shiftLeft_eq]

/-- `next_in_page` keeps the page and steps within it (20_memory.md R67). -/
theorem nextInPage_append (hi lo : Byte) : nextInPage (hi ++ lo) = hi ++ (lo + 1) := by
  have hlow : (add16 (hi ++ lo) 1).setWidth 8 = lo + 1 := by
    apply BitVec.eq_of_toNat_eq
    simp only [add16, BitVec.toNat_setWidth, BitVec.toNat_add, toNat_word_append]
    simp
    omega
  rw [nextInPage, word_split (add16 (hi ++ lo) 1), hlow,
    show (0xFF00#16) = (0xFF#8 ++ 0x00#8) from rfl, show (0x00FF#16) = (0x00#8 ++ 0xFF#8) from rfl,
    BitVec.and_append, BitVec.and_append, BitVec.or_append,
    show (0xFF#8) = BitVec.allOnes 8 from rfl, BitVec.and_allOnes, BitVec.and_allOnes, BitVec.and_zero,
    BitVec.and_zero, BitVec.or_zero, BitVec.zero_or]

theorem zext16_eq (b : Byte) : zext16 b = 0x00#8 ++ b := by
  apply BitVec.eq_of_toNat_eq
  rw [toNat_word_append]
  simp [zext16]
  omega

/-- `sext_16` is the pattern of the signed value (00_scope.md R16). -/
theorem sext16_eq (b : Byte) : sext16 b = b.signExtend 16 := by
  simp only [sext16, s8, BitVec.signExtend, BitVec.toInt]
  congr 1
  have := b.isLt
  split <;> split <;> omega

/-- The one operand byte lies just before the advanced PC. -/
theorem readOperand8_of_answers {m : AddrMode} (hm : nBytes m = 2) {s : State} {b : Byte}
    (h : Answers s [(s.pc - 1, b)]) : readOperand8 m s = (b, s.afterReads [(s.pc - 1, b)]) := by
  rw [readOperand8, operandAddr_two hm]
  exact memRead_of_answer h.1

/-- The two operand bytes, low first. -/
theorem readOperand16_of_answers {m : AddrMode} (hm : nBytes m = 3) {s : State} {lo hi : Byte}
    (h : Answers s [(s.pc - 2, lo), (s.pc - 1, hi)]) :
    readOperand16 m s = (hi ++ lo, s.afterReads [(s.pc - 2, lo), (s.pc - 1, hi)]) := by
  obtain ⟨h1, h2, -⟩ := h
  rw [record_read] at h2
  simp only [readOperand16, operandAddr_three hm, memRead_of_answer h1, memRead_of_answer h2, littleEndian,
    afterReads_afterReads, List.cons_append, List.nil_append]

/-- The two target bytes of a pointer, low first, both in its page. -/
theorem readPointer_of_answers {s : State} {phi plo tlo thi : Byte}
    (h : Answers s [(phi ++ plo, tlo), (phi ++ (plo + 1), thi)]) :
    readPointer (phi ++ plo) s =
      (thi ++ tlo, s.afterReads [(phi ++ plo, tlo), (phi ++ (plo + 1), thi)]) := by
  obtain ⟨h1, h2, -⟩ := h
  rw [record_read] at h2
  simp only [readPointer, nextInPage_append, memRead_of_answer h1, memRead_of_answer h2, littleEndian,
    afterReads_afterReads, List.cons_append, List.nil_append]

/-- Whatever the bus does, some bytes are its answers. -/
theorem exists_answers (s : State) (addrs : List Word) :
    ∃ bytes : List Byte, bytes.length = addrs.length ∧ Answers s (addrs.zip bytes) := by
  induction addrs generalizing s with
  | nil => exact ⟨[], rfl, trivial⟩
  | cons a rest ih =>
    obtain ⟨bs, hl, hb⟩ := ih (s.record (.read a (s.busAnswer a)))
    exact ⟨s.busAnswer a :: bs, by simp [hl], rfl, hb⟩

@[simp] theorem afterReads_pc (s : State) (reads : List (Word × Byte)) : (s.afterReads reads).pc = s.pc := rfl
@[simp] theorem afterReads_x (s : State) (reads : List (Word × Byte)) : (s.afterReads reads).x = s.x := rfl
@[simp] theorem afterReads_y (s : State) (reads : List (Word × Byte)) : (s.afterReads reads).y = s.y := rfl

/-- A listed address answers its byte (20_memory.md R62: "unless a claim assumes a memory image"). -/
theorem busAnswer_of_listed {s : State} {a : Word} {b : Byte} (h : Memory.lookup s.memory a.toNat = some b) :
    s.busAnswer a = b := by
  simp [State.busAnswer, h]

end Sys2Proof.Machine
end

