-- ==== Sys2Proof/Laws/Exec.lean ====
section
/-! SUPPORT. The instructions by operation: every instruction is RESOLVE or NBYTES of a mode or an operation on an object, and
what `exec` answers for each operation. -/

namespace Sys2Proof.Machine

/-- Every instruction, by operation (30_encoding.md R80). -/
theorem instr_cases (i : Instr) :
    (∃ m, i = .resolveOf m) ∨ (∃ m, i = .nbytesOf m) ∨ (∃ o, IsCounterCommand i o) := by
  cases i
  case resolveImm => exact .inl ⟨.immediate, rfl⟩
  case resolveAbs => exact .inl ⟨.absolute, rfl⟩
  case resolveImp => exact .inl ⟨.implied, rfl⟩
  case resolveAcc => exact .inl ⟨.accumulator, rfl⟩
  case resolveAbx => exact .inl ⟨.absoluteX, rfl⟩
  case resolveAby => exact .inl ⟨.absoluteY, rfl⟩
  case resolveZp => exact .inl ⟨.zeroPage, rfl⟩
  case resolveZpx => exact .inl ⟨.zeroPageX, rfl⟩
  case resolveZpy => exact .inl ⟨.zeroPageY, rfl⟩
  case resolveInd => exact .inl ⟨.indirect, rfl⟩
  case resolveIzx => exact .inl ⟨.indexedIndirect, rfl⟩
  case resolveIzy => exact .inl ⟨.indirectIndexed, rfl⟩
  case resolveRel => exact .inl ⟨.relative, rfl⟩
  case nbytesImm => exact .inr (.inl ⟨.immediate, rfl⟩)
  case nbytesAbs => exact .inr (.inl ⟨.absolute, rfl⟩)
  case nbytesImp => exact .inr (.inl ⟨.implied, rfl⟩)
  case nbytesAcc => exact .inr (.inl ⟨.accumulator, rfl⟩)
  case nbytesAbx => exact .inr (.inl ⟨.absoluteX, rfl⟩)
  case nbytesAby => exact .inr (.inl ⟨.absoluteY, rfl⟩)
  case nbytesZp => exact .inr (.inl ⟨.zeroPage, rfl⟩)
  case nbytesZpx => exact .inr (.inl ⟨.zeroPageX, rfl⟩)
  case nbytesZpy => exact .inr (.inl ⟨.zeroPageY, rfl⟩)
  case nbytesInd => exact .inr (.inl ⟨.indirect, rfl⟩)
  case nbytesIzx => exact .inr (.inl ⟨.indexedIndirect, rfl⟩)
  case nbytesIzy => exact .inr (.inl ⟨.indirectIndexed, rfl⟩)
  case nbytesRel => exact .inr (.inl ⟨.relative, rfl⟩)
  case resetP0 => exact .inr (.inr ⟨.p0, .inl rfl⟩)
  case resetP1 => exact .inr (.inr ⟨.p1, .inl rfl⟩)
  case resetM0 => exact .inr (.inr ⟨.m0, .inl rfl⟩)
  case resetM1 => exact .inr (.inr ⟨.m1, .inl rfl⟩)
  case resetBl => exact .inr (.inr ⟨.bl, .inl rfl⟩)
  case valueP0 => exact .inr (.inr ⟨.p0, .inr (.inl rfl)⟩)
  case valueP1 => exact .inr (.inr ⟨.p1, .inr (.inl rfl)⟩)
  case valueM0 => exact .inr (.inr ⟨.m0, .inr (.inl rfl)⟩)
  case valueM1 => exact .inr (.inr ⟨.m1, .inr (.inl rfl)⟩)
  case valueBl => exact .inr (.inr ⟨.bl, .inr (.inl rfl)⟩)
  case setvP0 v => exact .inr (.inr ⟨.p0, .inr (.inr (.inl ⟨v, rfl⟩))⟩)
  case setvP1 v => exact .inr (.inr ⟨.p1, .inr (.inr (.inl ⟨v, rfl⟩))⟩)
  case setvM0 v => exact .inr (.inr ⟨.m0, .inr (.inr (.inl ⟨v, rfl⟩))⟩)
  case setvM1 v => exact .inr (.inr ⟨.m1, .inr (.inr (.inl ⟨v, rfl⟩))⟩)
  case setvBl v => exact .inr (.inr ⟨.bl, .inr (.inr (.inl ⟨v, rfl⟩))⟩)
  case clockP0 => exact .inr (.inr ⟨.p0, .inr (.inr (.inr (.inl rfl)))⟩)
  case clockP1 => exact .inr (.inr ⟨.p1, .inr (.inr (.inr (.inl rfl)))⟩)
  case clockM0 => exact .inr (.inr ⟨.m0, .inr (.inr (.inr (.inl rfl)))⟩)
  case clockM1 => exact .inr (.inr ⟨.m1, .inr (.inr (.inr (.inl rfl)))⟩)
  case clockBl => exact .inr (.inr ⟨.bl, .inr (.inr (.inr (.inl rfl)))⟩)
  case hmstartP0 hm => exact .inr (.inr ⟨.p0, .inr (.inr (.inr (.inr (.inl ⟨hm, rfl⟩))))⟩)
  case hmstartP1 hm => exact .inr (.inr ⟨.p1, .inr (.inr (.inr (.inr (.inl ⟨hm, rfl⟩))))⟩)
  case hmstartM0 hm => exact .inr (.inr ⟨.m0, .inr (.inr (.inr (.inr (.inl ⟨hm, rfl⟩))))⟩)
  case hmstartM1 hm => exact .inr (.inr ⟨.m1, .inr (.inr (.inr (.inr (.inl ⟨hm, rfl⟩))))⟩)
  case hmstartBl hm => exact .inr (.inr ⟨.bl, .inr (.inr (.inr (.inr (.inl ⟨hm, rfl⟩))))⟩)
  case hmapplyP0 => exact .inr (.inr ⟨.p0, .inr (.inr (.inr (.inr (.inr rfl))))⟩)
  case hmapplyP1 => exact .inr (.inr ⟨.p1, .inr (.inr (.inr (.inr (.inr rfl))))⟩)
  case hmapplyM0 => exact .inr (.inr ⟨.m0, .inr (.inr (.inr (.inr (.inr rfl))))⟩)
  case hmapplyM1 => exact .inr (.inr ⟨.m1, .inr (.inr (.inr (.inr (.inr rfl))))⟩)
  case hmapplyBl => exact .inr (.inr ⟨.bl, .inr (.inr (.inr (.inr (.inr rfl))))⟩)

variable (s : State) (o : Obj)

@[simp] theorem exec_nbytesOf (m : AddrMode) : exec (.nbytesOf m) s = .next (returnLength m s) := by
  cases m <;> rfl
@[simp] theorem exec_resetOn : exec (.resetOn o) s = .next (resetCommand o s) := by cases o <;> rfl
@[simp] theorem exec_valueOn : exec (.valueOn o) s = .next (valueCommand o s) := by cases o <;> rfl
@[simp] theorem exec_setvOn (v : Byte) : exec (.setvOn o v) s = .next (setValueCommand o v s) := by cases o <;> rfl
@[simp] theorem exec_clockOn : exec (.clockOn o) s = .next (clockCommand o s) := by cases o <;> rfl
@[simp] theorem exec_hmstartOn (hm : Byte) : exec (.hmstartOn o hm) s = .next (startHmoveCommand o hm s) := by
  cases o <;> rfl
@[simp] theorem exec_hmapplyOn : exec (.hmapplyOn o) s = .next (applyHmoveCommand o s) := by cases o <;> rfl

/-- NBYTES returns its length and does nothing else (40_address_resolver.md R113, R114). -/
theorem exec_nbytes_observed (m : AddrMode) :
    exec (.nbytesOf m) s = .next (s.observed [] (.ok (.length (BitVec.ofNat 2 (nBytes m))))) := by
  rw [exec_nbytesOf, returnLength, ret_eq_observed]

@[simp] theorem resetCommand_cnt_same : (resetCommand o s).cnt o = (s.cnt o).reset := by simp [resetCommand]
@[simp] theorem valueCommand_cnt (o' : Obj) : (valueCommand o s).cnt o' = s.cnt o' := rfl
@[simp] theorem clockCommand_cnt_same : (clockCommand o s).cnt o = (s.cnt o).clock := by simp [clockCommand]
@[simp] theorem startHmoveCommand_cnt_same (hm : Byte) :
    (startHmoveCommand o hm s).cnt o = (s.cnt o).startHmove hm := by simp [startHmoveCommand]
@[simp] theorem applyHmoveCommand_cnt_same : (applyHmoveCommand o s).cnt o = (s.cnt o).applyHmove := by
  simp [applyHmoveCommand]

@[simp] theorem applyHmoveCommand_processor : (applyHmoveCommand o s).processor = s.processor := rfl
@[simp] theorem applyHmoveCommand_fault : (applyHmoveCommand o s).fault = s.fault := rfl
@[simp] theorem applyHmoveCommand_faultInfo : (applyHmoveCommand o s).faultInfo = s.faultInfo := rfl
@[simp] theorem applyHmoveCommand_memory : (applyHmoveCommand o s).memory = s.memory := rfl
@[simp] theorem applyHmoveCommand_inputs : (applyHmoveCommand o s).inputs = s.inputs := rfl
@[simp] theorem applyHmoveCommand_cnt_ne {o o' : Obj} (h : o' ≠ o) : (applyHmoveCommand o s).cnt o' = s.cnt o' := by
  simp [applyHmoveCommand, h]

/-- CONT as the host hears it from an APPLY_HMOVE (41_position_counter.md R157). -/
@[simp] theorem applyHmoveCommand_answeredCont :
    (applyHmoveCommand o s).answeredCont = stillMoving (s.cnt o).applyHmove.clocksToAdd := ret_answeredCont _ _

theorem setValueCommand_of_lt {v : Byte} (h : v.toNat < (s.cnt o).period.toNat) :
    setValueCommand o v s = (s.setCnt o ((s.cnt o).setValue v)).ret (.ok .nothing) := by
  rw [setValueCommand, if_neg (by omega)]

theorem setValueCommand_of_ge {v : Byte} (h : (s.cnt o).period.toNat ≤ v.toNat) :
    setValueCommand o v s = enterFault .counterDomain (encode (.setvOn o v)) s := by
  rw [setValueCommand, if_pos h]

/-- Writing one instance and returning touches nothing else (41_position_counter.md R159). -/
theorem onlyCounter_setCnt_ret (c : Counter) (r : Result) : OnlyCounter o r s ((s.setCnt o c).ret r) :=
  ⟨rfl, fun o' h => by simp [h]⟩

/-- A run of commands, and then more. -/
theorem execAll_append {is : List Instr} {t : State} (js : List Instr) (h : execAll is s = .next t) :
    execAll (is ++ js) s = execAll js t := by
  induction is generalizing s with
  | nil => cases h; rfl
  | cons i rest ih =>
    rw [execAll] at h
    rw [List.cons_append, execAll]
    cases hx : exec i s with
    | next u => rw [hx] at h; exact ih u h
    | fault r => rw [hx] at h; cases h
    | refused r => rw [hx] at h; cases h

@[simp] theorem execAll_singleton (i : Instr) : execAll [i] s = exec i s := by
  rw [execAll]
  cases exec i s <;> rfl

/-- A counter command answers its own effect on its instance and a result, or it is a SET_VALUE outside its domain that enters
CounterDomain (41_position_counter.md R150). -/
theorem exec_counter {i : Instr} (h : IsCounterCommand i o) :
    (∃ c r, exec i s = .next ((s.setCnt o c).ret r)) ∨
    (∃ v, i = .setvOn o v ∧ (s.cnt o).period.toNat ≤ v.toNat ∧
      exec i s = .next (enterFault .counterDomain (encode (.setvOn o v)) s)) := by
  rcases h with rfl | rfl | ⟨v, rfl⟩ | rfl | ⟨hm, rfl⟩ | rfl
  · exact .inl ⟨_, _, exec_resetOn s o⟩
  · exact .inl ⟨s.cnt o, _, by rw [exec_valueOn, setCnt_cnt_self]; rfl⟩
  · by_cases hv : (s.cnt o).period.toNat ≤ v.toNat
    · exact .inr ⟨v, rfl, hv, by rw [exec_setvOn, setValueCommand, if_pos hv]⟩
    · exact .inl ⟨_, _, by rw [exec_setvOn, setValueCommand, if_neg hv]⟩
  · exact .inl ⟨_, _, exec_clockOn s o⟩
  · exact .inl ⟨_, _, exec_hmstartOn s o hm⟩
  · exact .inl ⟨_, _, exec_hmapplyOn s o⟩

/-- A counter command within its domain: its effect on the instance and its output depend on that instance alone
(41_position_counter.md R150). -/
theorem exec_counter_own {i : Instr} {o : Obj} (h : IsCounterCommand i o) :
    ∃ (f : Counter → Counter) (out : Counter → Output), (∀ c, (f c).period = c.period) ∧
      ∀ s : State, (∀ v, i = .setvOn o v → v.toNat < (s.cnt o).period.toNat) →
        exec i s = .next ((s.setCnt o (f (s.cnt o))).ret (.ok (out (s.cnt o)))) := by
  rcases h with rfl | rfl | ⟨v, rfl⟩ | rfl | ⟨hm, rfl⟩ | rfl
  · exact ⟨Counter.reset, fun _ => .nothing, fun _ => rfl, fun s _ => exec_resetOn s o⟩
  · refine ⟨id, fun c => .position c.position, fun _ => rfl, fun s _ => ?_⟩
    rw [exec_valueOn, id, setCnt_cnt_self]
    rfl
  · exact ⟨fun c => c.setValue v, fun _ => .nothing, fun _ => rfl,
      fun s hv => by rw [exec_setvOn, setValueCommand_of_lt s o (hv v rfl)]⟩
  · exact ⟨Counter.clock, fun c => .transition c.clockTrans, fun _ => rfl, fun s _ => exec_clockOn s o⟩
  · exact ⟨fun c => c.startHmove hm, fun _ => .nothing, fun _ => rfl, fun s _ => exec_hmstartOn s o hm⟩
  · exact ⟨Counter.applyHmove, fun c => .motion (stillMoving c.applyHmove.clocksToAdd), fun _ => rfl,
      fun s _ => exec_hmapplyOn s o⟩

/-- A RESOLVE reads and returns (40_address_resolver.md R110, R113). -/
theorem exec_resolve (m : AddrMode) :
    ∃ reads ea extra, exec (.resolveOf m) s = .next (s.observed reads (.ok (.resolved ea extra))) := by
  have three : ∀ m', nBytes m' = 3 → ∃ lo hi,
      readOperand16 m' s = (hi ++ lo, s.afterReads [(s.pc - 2, lo), (s.pc - 1, hi)]) := fun m' hm =>
    ⟨_, _, readOperand16_of_answers hm ⟨rfl, rfl, trivial⟩⟩
  have two : ∀ m', nBytes m' = 2 → ∃ b, readOperand8 m' s = (b, s.afterReads [(s.pc - 1, b)]) := fun m' hm =>
    ⟨_, readOperand8_of_answers hm ⟨rfl, trivial⟩⟩
  have ptr : ∀ (phi plo : Byte) (r : List (Word × Byte)), ∃ tlo thi, readPointer (phi ++ plo) (s.afterReads r) =
      (thi ++ tlo, s.afterReads (r ++ [(phi ++ plo, tlo), (phi ++ (plo + 1), thi)])) := fun phi plo r =>
    ⟨_, _, by rw [readPointer_of_answers ⟨rfl, rfl, trivial⟩, afterReads_afterReads]⟩
  cases m
  case immediate => exact ⟨_, _, _, by simp only [Instr.resolveOf, exec, execResolveImm, returnAddress_eq]; rfl⟩
  case implied => exact ⟨_, _, _, by simp only [Instr.resolveOf, exec, execResolveImp, returnAddress_eq]; rfl⟩
  case accumulator => exact ⟨_, _, _, by simp only [Instr.resolveOf, exec, execResolveAcc, returnAddress_eq]; rfl⟩
  case absolute =>
    obtain ⟨lo, hi, h⟩ := three .absolute rfl
    exact ⟨_, _, _, by simp only [Instr.resolveOf, exec, execResolveAbs, h, returnAddress_afterReads]; rfl⟩
  case absoluteX =>
    obtain ⟨lo, hi, h⟩ := three .absoluteX rfl
    exact ⟨_, _, _, by simp only [Instr.resolveOf, exec, execResolveAbx, h, returnAddress_afterReads]; rfl⟩
  case absoluteY =>
    obtain ⟨lo, hi, h⟩ := three .absoluteY rfl
    exact ⟨_, _, _, by simp only [Instr.resolveOf, exec, execResolveAby, h, returnAddress_afterReads]; rfl⟩
  case zeroPage =>
    obtain ⟨b, h⟩ := two .zeroPage rfl
    exact ⟨_, _, _, by simp only [Instr.resolveOf, exec, execResolveZp, h, returnAddress_afterReads]; rfl⟩
  case zeroPageX =>
    obtain ⟨b, h⟩ := two .zeroPageX rfl
    exact ⟨_, _, _, by simp only [Instr.resolveOf, exec, execResolveZpx, h, returnAddress_afterReads]; rfl⟩
  case zeroPageY =>
    obtain ⟨b, h⟩ := two .zeroPageY rfl
    exact ⟨_, _, _, by simp only [Instr.resolveOf, exec, execResolveZpy, h, returnAddress_afterReads]; rfl⟩
  case relative =>
    obtain ⟨b, h⟩ := two .relative rfl
    exact ⟨_, _, _, by simp only [Instr.resolveOf, exec, execResolveRel, h, returnAddress_afterReads]; rfl⟩
  case indirect =>
    obtain ⟨lo, hi, h⟩ := three .indirect rfl
    obtain ⟨tlo, thi, h2⟩ := ptr hi lo [(s.pc - 2, lo), (s.pc - 1, hi)]
    exact ⟨_, _, _, by simp only [Instr.resolveOf, exec, execResolveInd, h, h2, returnAddress_afterReads]; rfl⟩
  case indexedIndirect =>
    obtain ⟨b, h⟩ := two .indexedIndirect rfl
    obtain ⟨tlo, thi, h2⟩ := ptr 0x00#8 (add8 b s.x) [(s.pc - 1, b)]
    exact ⟨_, _, _, by simp only [Instr.resolveOf, exec, execResolveIzx, h, zext16_eq, h2, returnAddress_afterReads]; rfl⟩
  case indirectIndexed =>
    obtain ⟨b, h⟩ := two .indirectIndexed rfl
    obtain ⟨tlo, thi, h2⟩ := ptr 0x00#8 b [(s.pc - 1, b)]
    exact ⟨_, _, _, by simp only [Instr.resolveOf, exec, execResolveIzy, h, zext16_eq b, h2, returnAddress_afterReads]; rfl⟩

/-- Everything a command can do: read and return; write its own instance and return; or, for a SET_VALUE outside its domain,
enter CounterDomain. -/
theorem exec_cases (i : Instr) :
    (∃ reads r, exec i s = .next (s.observed reads r)) ∨
    (∃ o c r, IsCounterCommand i o ∧ exec i s = .next ((s.setCnt o c).ret r)) ∨
    (∃ o v, i = .setvOn o v ∧ (s.cnt o).period.toNat ≤ v.toNat ∧
      exec i s = .next (enterFault .counterDomain (encode i) s)) := by
  rcases instr_cases i with ⟨m, rfl⟩ | ⟨m, rfl⟩ | ⟨o, h⟩
  · obtain ⟨reads, ea, extra, h⟩ := exec_resolve s m
    exact .inl ⟨reads, _, h⟩
  · exact .inl ⟨[], _, exec_nbytes_observed s m⟩
  · rcases exec_counter s o h with ⟨c, r, h'⟩ | ⟨v, rfl, hv, h'⟩
    · exact .inr (.inl ⟨o, c, r, h, h'⟩)
    · exact .inr (.inr ⟨o, v, rfl, hv, h'⟩)

/-- A command that the block admits runs, does not halt the block, takes away nothing that it admits, and leaves every instance
it is no operation on. -/
theorem exec_admitted {s : State} {i : Instr} (h : s.Admits i) :
    ∃ t, exec i s = .next t ∧ t.cause = s.cause ∧ (∀ j, s.Admits j → t.Admits j) ∧
      ∀ o, ¬ IsCounterCommand i o → t.cnt o = s.cnt o := by
  rcases instr_cases i with ⟨m, rfl⟩ | ⟨m, rfl⟩ | ⟨o, hi⟩
  · obtain ⟨_, _, _, hx⟩ := exec_resolve s m
    exact ⟨_, hx, rfl, fun _ hj => hj, fun _ _ => rfl⟩
  · exact ⟨_, exec_nbytes_observed s m, rfl, fun _ hj => hj, fun _ _ => rfl⟩
  · obtain ⟨f, out, hp, hx⟩ := exec_counter_own hi
    refine ⟨_, hx s (h.2 o), rfl, fun j hj => ⟨hj.1, fun o' v e => ?_⟩, fun o' h' => ?_⟩
    · by_cases ho : o' = o
      · subst ho
        rw [ret_cnt, setCnt_cnt_same, hp]
        exact hj.2 o' v e
      · rw [ret_cnt, setCnt_cnt_ne s _ ho]
        exact hj.2 o' v e
    · have ho : o' ≠ o := by
        rintro rfl
        exact h' hi
      rw [ret_cnt, setCnt_cnt_ne s _ ho]

end Sys2Proof.Machine
end

