-- ==== Sys2Proof/Laws/Memory.lean ====
section
/-! SUPPORT. The memory image: a write is read back, leaves every other address alone, and keeps the canonical form. -/

namespace Sys2Proof.Machine

@[simp] theorem Memory.lookup_write_same (m : List Host.Cell) (a : Nat) (b : Byte) :
    Memory.lookup (Memory.write m a b) a = some b := by
  induction m with
  | nil => simp [Memory.write, Memory.lookup]
  | cons e rest ih =>
    obtain ⟨k, c⟩ := e
    simp only [Memory.write]
    split
    · rename_i h
      simp [Memory.lookup, Nat.ne_of_lt h, ih]
    · split <;> simp [Memory.lookup]

theorem Memory.lookup_write_ne (m : List Host.Cell) {a a' : Nat} (b : Byte) (h : a' ≠ a) :
    Memory.lookup (Memory.write m a b) a' = Memory.lookup m a' := by
  induction m with
  | nil => simp [Memory.write, Memory.lookup, Ne.symm h]
  | cons e rest ih =>
    obtain ⟨k, c⟩ := e
    simp only [Memory.write]
    split
    · simp [Memory.lookup, ih]
    · split
      · rename_i hk
        subst hk
        simp [Memory.lookup, Ne.symm h]
      · simp [Memory.lookup, Ne.symm h]

/-- A write at or above the bound keeps the rising order above it. -/
theorem Memory.risingFrom_write (m : List Host.Cell) (lowest a : Nat) (b : Byte)
    (h : Memory.risingFrom lowest m = true) (hl : lowest ≤ a) (ha : a < 65536) :
    Memory.risingFrom lowest (Memory.write m a b) = true := by
  induction m generalizing lowest with
  | nil => simp [Memory.write, Memory.risingFrom, hl, ha]
  | cons e rest ih =>
    obtain ⟨k, c⟩ := e
    simp only [Memory.risingFrom, Bool.and_eq_true, decide_eq_true_eq] at h
    obtain ⟨⟨hlk, hk⟩, hr⟩ := h
    simp only [Memory.write]
    split
    · simp only [Memory.risingFrom, Bool.and_eq_true, decide_eq_true_eq]
      exact ⟨⟨hlk, hk⟩, ih (k + 1) hr (by omega)⟩
    · split
      · rename_i hka
        subst hka
        simp only [Memory.risingFrom, Bool.and_eq_true, decide_eq_true_eq]
        exact ⟨⟨hlk, hk⟩, hr⟩
      · simp only [Memory.risingFrom, Bool.and_eq_true, decide_eq_true_eq]
        exact ⟨⟨hl, ha⟩, ⟨by omega, hk⟩, hr⟩

/-- Every memory operation keeps the canonical form. -/
theorem Memory.wf_write (m : List Host.Cell) (a : Word) (b : Byte) (h : Memory.wf m = true) :
    Memory.wf (Memory.write m a.toNat b) = true :=
  Memory.risingFrom_write m 0 a.toNat b h (Nat.zero_le _) a.isLt

/-- A canonical image lists no address below its bound. -/
theorem Memory.lookup_below (m : List Host.Cell) (lowest a : Nat) (h : Memory.risingFrom lowest m = true)
    (ha : a < lowest) : Memory.lookup m a = none := by
  induction m generalizing lowest with
  | nil => rfl
  | cons e rest ih =>
    obtain ⟨k, c⟩ := e
    simp only [Memory.risingFrom, Bool.and_eq_true, decide_eq_true_eq] at h
    simp only [Memory.lookup]
    rw [if_neg (by omega)]
    exact ih (k + 1) h.2 (by omega)

end Sys2Proof.Machine
end

