-- ==== Sys2Proof/Laws/PerInstr.lean ====
section
/-! SUPPORT. The encoder against the opcode table, row by row: match and mask are copied from spec/opcode_table.json, the
encoder is written from the field tables of 30_encoding.md. -/

namespace Sys2Proof.Laws.TableRow

/-- The row's match and mask. -/
def row (i : Instr) : Word × Word :=
  match i with
  | .resolveImm => (0x0000#16, 0xFFFF#16)
  | .resolveAbs => (0x0001#16, 0xFFFF#16)
  | .resolveImp => (0x0002#16, 0xFFFF#16)
  | .resolveAcc => (0x0003#16, 0xFFFF#16)
  | .resolveAbx => (0x0004#16, 0xFFFF#16)
  | .resolveAby => (0x0005#16, 0xFFFF#16)
  | .resolveZp => (0x0006#16, 0xFFFF#16)
  | .resolveZpx => (0x0007#16, 0xFFFF#16)
  | .resolveZpy => (0x0008#16, 0xFFFF#16)
  | .resolveInd => (0x0009#16, 0xFFFF#16)
  | .resolveIzx => (0x000A#16, 0xFFFF#16)
  | .resolveIzy => (0x000B#16, 0xFFFF#16)
  | .resolveRel => (0x000C#16, 0xFFFF#16)
  | .nbytesImm => (0x4000#16, 0xFFFF#16)
  | .nbytesAbs => (0x4001#16, 0xFFFF#16)
  | .nbytesImp => (0x4002#16, 0xFFFF#16)
  | .nbytesAcc => (0x4003#16, 0xFFFF#16)
  | .nbytesAbx => (0x4004#16, 0xFFFF#16)
  | .nbytesAby => (0x4005#16, 0xFFFF#16)
  | .nbytesZp => (0x4006#16, 0xFFFF#16)
  | .nbytesZpx => (0x4007#16, 0xFFFF#16)
  | .nbytesZpy => (0x4008#16, 0xFFFF#16)
  | .nbytesInd => (0x4009#16, 0xFFFF#16)
  | .nbytesIzx => (0x400A#16, 0xFFFF#16)
  | .nbytesIzy => (0x400B#16, 0xFFFF#16)
  | .nbytesRel => (0x400C#16, 0xFFFF#16)
  | .resetP0 => (0x8000#16, 0xFFFF#16)
  | .resetP1 => (0x8100#16, 0xFFFF#16)
  | .resetM0 => (0x8200#16, 0xFFFF#16)
  | .resetM1 => (0x8300#16, 0xFFFF#16)
  | .resetBl => (0x8400#16, 0xFFFF#16)
  | .valueP0 => (0x9000#16, 0xFFFF#16)
  | .valueP1 => (0x9100#16, 0xFFFF#16)
  | .valueM0 => (0x9200#16, 0xFFFF#16)
  | .valueM1 => (0x9300#16, 0xFFFF#16)
  | .valueBl => (0x9400#16, 0xFFFF#16)
  | .setvP0 _ => (0xA000#16, 0xFF00#16)
  | .setvP1 _ => (0xA100#16, 0xFF00#16)
  | .setvM0 _ => (0xA200#16, 0xFF00#16)
  | .setvM1 _ => (0xA300#16, 0xFF00#16)
  | .setvBl _ => (0xA400#16, 0xFF00#16)
  | .clockP0 => (0xB000#16, 0xFFFF#16)
  | .clockP1 => (0xB100#16, 0xFFFF#16)
  | .clockM0 => (0xB200#16, 0xFFFF#16)
  | .clockM1 => (0xB300#16, 0xFFFF#16)
  | .clockBl => (0xB400#16, 0xFFFF#16)
  | .hmstartP0 _ => (0xC000#16, 0xFF00#16)
  | .hmstartP1 _ => (0xC100#16, 0xFF00#16)
  | .hmstartM0 _ => (0xC200#16, 0xFF00#16)
  | .hmstartM1 _ => (0xC300#16, 0xFF00#16)
  | .hmstartBl _ => (0xC400#16, 0xFF00#16)
  | .hmapplyP0 => (0xD000#16, 0xFFFF#16)
  | .hmapplyP1 => (0xD100#16, 0xFFFF#16)
  | .hmapplyM0 => (0xD200#16, 0xFFFF#16)
  | .hmapplyM1 => (0xD300#16, 0xFFFF#16)
  | .hmapplyBl => (0xD400#16, 0xFFFF#16)

/-- The instruction's word has the row's fixed bits. -/
abbrev Statement (i : Instr) : Prop := encode i &&& (row i).2 = (row i).1

theorem resolveImm : Statement .resolveImm := by decide
theorem resolveAbs : Statement .resolveAbs := by decide
theorem resolveImp : Statement .resolveImp := by decide
theorem resolveAcc : Statement .resolveAcc := by decide
theorem resolveAbx : Statement .resolveAbx := by decide
theorem resolveAby : Statement .resolveAby := by decide
theorem resolveZp : Statement .resolveZp := by decide
theorem resolveZpx : Statement .resolveZpx := by decide
theorem resolveZpy : Statement .resolveZpy := by decide
theorem resolveInd : Statement .resolveInd := by decide
theorem resolveIzx : Statement .resolveIzx := by decide
theorem resolveIzy : Statement .resolveIzy := by decide
theorem resolveRel : Statement .resolveRel := by decide
theorem nbytesImm : Statement .nbytesImm := by decide
theorem nbytesAbs : Statement .nbytesAbs := by decide
theorem nbytesImp : Statement .nbytesImp := by decide
theorem nbytesAcc : Statement .nbytesAcc := by decide
theorem nbytesAbx : Statement .nbytesAbx := by decide
theorem nbytesAby : Statement .nbytesAby := by decide
theorem nbytesZp : Statement .nbytesZp := by decide
theorem nbytesZpx : Statement .nbytesZpx := by decide
theorem nbytesZpy : Statement .nbytesZpy := by decide
theorem nbytesInd : Statement .nbytesInd := by decide
theorem nbytesIzx : Statement .nbytesIzx := by decide
theorem nbytesIzy : Statement .nbytesIzy := by decide
theorem nbytesRel : Statement .nbytesRel := by decide
theorem resetP0 : Statement .resetP0 := by decide
theorem resetP1 : Statement .resetP1 := by decide
theorem resetM0 : Statement .resetM0 := by decide
theorem resetM1 : Statement .resetM1 := by decide
theorem resetBl : Statement .resetBl := by decide
theorem valueP0 : Statement .valueP0 := by decide
theorem valueP1 : Statement .valueP1 := by decide
theorem valueM0 : Statement .valueM0 := by decide
theorem valueM1 : Statement .valueM1 := by decide
theorem valueBl : Statement .valueBl := by decide
theorem setvP0 (d : Byte) : Statement (.setvP0 d) := by revert d; decide +kernel
theorem setvP1 (d : Byte) : Statement (.setvP1 d) := by revert d; decide +kernel
theorem setvM0 (d : Byte) : Statement (.setvM0 d) := by revert d; decide +kernel
theorem setvM1 (d : Byte) : Statement (.setvM1 d) := by revert d; decide +kernel
theorem setvBl (d : Byte) : Statement (.setvBl d) := by revert d; decide +kernel
theorem clockP0 : Statement .clockP0 := by decide
theorem clockP1 : Statement .clockP1 := by decide
theorem clockM0 : Statement .clockM0 := by decide
theorem clockM1 : Statement .clockM1 := by decide
theorem clockBl : Statement .clockBl := by decide
theorem hmstartP0 (d : Byte) : Statement (.hmstartP0 d) := by revert d; decide +kernel
theorem hmstartP1 (d : Byte) : Statement (.hmstartP1 d) := by revert d; decide +kernel
theorem hmstartM0 (d : Byte) : Statement (.hmstartM0 d) := by revert d; decide +kernel
theorem hmstartM1 (d : Byte) : Statement (.hmstartM1 d) := by revert d; decide +kernel
theorem hmstartBl (d : Byte) : Statement (.hmstartBl d) := by revert d; decide +kernel
theorem hmapplyP0 : Statement .hmapplyP0 := by decide
theorem hmapplyP1 : Statement .hmapplyP1 := by decide
theorem hmapplyM0 : Statement .hmapplyM0 := by decide
theorem hmapplyM1 : Statement .hmapplyM1 := by decide
theorem hmapplyBl : Statement .hmapplyBl := by decide

end Sys2Proof.Laws.TableRow
end

