-- ==== Sys2Proof/Laws/Step.lean ====
section
/-! SUPPORT. Everything a step can do, said once. -/

namespace Sys2Proof.Machine

/-- A command word taken by a block that is not halted (60_exceptions.md R195). -/
theorem takeCommand_of_cause {s : State} (w : Word) (hc : s.cause = 0) :
    takeCommand w s =
      match decode w with
      | .error c => .next (enterFault c w s)
      | .ok i => if processorReady s.processor i then exec i s else .fault .processorStateUnset := by
  simp only [takeCommand, not_halted_of_cause hc]
  rfl

/-- A halted block takes no command word (60_exceptions.md R197). -/
theorem takeCommand_of_halted {s : State} (w : Word) (hc : s.cause ≠ 0) : takeCommand w s = .fault .halted := by
  rw [takeCommand, if_pos ((halted_iff s).2 hc)]

@[simp] theorem decode_hmapplyOn (o : Obj) : decode (encode (.hmapplyOn o)) = .ok (.hmapplyOn o) := by
  cases o <;> decide

@[simp] theorem processorReady_hmapplyOn (p : Processor) (o : Obj) : processorReady p (.hmapplyOn o) = true := by
  cases o <;> rfl

/-- One APPLY_HMOVE of a motion, on a block that is not halted: the command's effect, and the protocol's inputs. -/
theorem takeMotion_of_cause (hp : HmoveProtocol) (o : Obj) {s : State} (hc : s.cause = 0) :
    takeMotion hp o s = .next (followMotion hp o (applyHmoveCommand o s)) := by
  simp [takeMotion, takeCommand_of_cause _ hc]

theorem takeMotion_of_halted (hp : HmoveProtocol) (o : Obj) {s : State} (hc : s.cause ≠ 0) :
    takeMotion hp o s = .fault .halted := by
  rw [takeMotion, takeCommand_of_halted _ hc]

/-- A step that answers a next state, under any HMOVE_PROTOCOL, took one host input, and did one of these. -/
theorem hostStep_cases {hp : HmoveProtocol} {s t : State} (h : hostStep hp s = .next t) :
    ∃ i rest, s.inputs = i :: rest ∧
      ((∃ w c, i = .command w ∧ s.cause = 0 ∧ decode w = .error c ∧ t = enterFault c w (s.afterInput i rest)) ∨
       (∃ w j, i = .command w ∧ s.cause = 0 ∧ decode w = .ok j ∧ processorReady s.processor j = true ∧
          exec j (s.afterInput i rest) = .next t) ∨
       (∃ o, i = .motion o ∧ s.cause = 0 ∧ t = followMotion hp o (applyHmoveCommand o (s.afterInput i rest))) ∨
       (∃ ps, i = .rst ps ∧ ps.paramsWf = true ∧ t = blockReset ps (s.afterInput i rest)) ∨
       (∃ v, i = .writePC v ∧ t = hostWritePC v (s.afterInput i rest)) ∨
       (∃ v, i = .writeX v ∧ t = hostWriteX v (s.afterInput i rest)) ∨
       (∃ v, i = .writeY v ∧ t = hostWriteY v (s.afterInput i rest)) ∨
       (∃ a b, i = .writeMem a b ∧ t = hostWriteMem a b (s.afterInput i rest))) := by
  simp only [hostStep] at h
  cases hi : s.inputs with
  | nil => rw [hi] at h; cases h
  | cons i rest =>
    rw [hi] at h
    simp only at h
    refine ⟨i, rest, rfl, ?_⟩
    cases i with
    | command w =>
      by_cases hc : s.cause = 0
      · rw [takeInput, takeCommand_of_cause (s := s.afterInput (.command w) rest) w hc] at h
        cases hd : decode w with
        | error c =>
          rw [hd] at h
          exact .inl ⟨w, c, rfl, hc, hd, (Host.Outcome.next.inj h).symm⟩
        | ok j =>
          rw [hd] at h
          simp only at h
          split at h
          · rename_i hp
            exact .inr (.inl ⟨w, j, rfl, hc, hd, hp, h⟩)
          · cases h
      · rw [takeInput, takeCommand_of_halted (s := s.afterInput (.command w) rest) w hc] at h
        cases h
    | motion o =>
      by_cases hc : s.cause = 0
      · rw [takeInput, takeMotion_of_cause hp o (s := s.afterInput (.motion o) rest) hc] at h
        exact .inr (.inr (.inl ⟨o, rfl, hc, (Host.Outcome.next.inj h).symm⟩))
      · rw [takeInput, takeMotion_of_halted hp o (s := s.afterInput (.motion o) rest) hc] at h
        cases h
    | rst ps =>
      simp only [takeInput, takeReset] at h
      split at h
      · rename_i hp
        exact .inr (.inr (.inr (.inl ⟨ps, rfl, hp, (Host.Outcome.next.inj h).symm⟩)))
      · cases h
    | writePC v => exact .inr (.inr (.inr (.inr (.inl ⟨v, rfl, (Host.Outcome.next.inj h).symm⟩))))
    | writeX v => exact .inr (.inr (.inr (.inr (.inr (.inl ⟨v, rfl, (Host.Outcome.next.inj h).symm⟩)))))
    | writeY v => exact .inr (.inr (.inr (.inr (.inr (.inr (.inl ⟨v, rfl, (Host.Outcome.next.inj h).symm⟩))))))
    | writeMem a b =>
      exact .inr (.inr (.inr (.inr (.inr (.inr (.inr ⟨a, b, rfl, (Host.Outcome.next.inj h).symm⟩))))))

/-- The same of a step of this machine. -/
theorem step_cases {s t : State} (h : step s = .next t) :
    ∃ i rest, s.inputs = i :: rest ∧
      ((∃ w c, i = .command w ∧ s.cause = 0 ∧ decode w = .error c ∧ t = enterFault c w (s.afterInput i rest)) ∨
       (∃ w j, i = .command w ∧ s.cause = 0 ∧ decode w = .ok j ∧ processorReady s.processor j = true ∧
          exec j (s.afterInput i rest) = .next t) ∨
       (∃ o, i = .motion o ∧ s.cause = 0 ∧
          t = followMotion Config.hmoveProtocol o (applyHmoveCommand o (s.afterInput i rest))) ∨
       (∃ ps, i = .rst ps ∧ ps.paramsWf = true ∧ t = blockReset ps (s.afterInput i rest)) ∨
       (∃ v, i = .writePC v ∧ t = hostWritePC v (s.afterInput i rest)) ∨
       (∃ v, i = .writeX v ∧ t = hostWriteX v (s.afterInput i rest)) ∨
       (∃ v, i = .writeY v ∧ t = hostWriteY v (s.afterInput i rest)) ∨
       (∃ a b, i = .writeMem a b ∧ t = hostWriteMem a b (s.afterInput i rest))) :=
  hostStep_cases h

/-- A step on a command word of a block that is not halted, under any HMOVE_PROTOCOL. -/
theorem hostStep_command (hp : HmoveProtocol) {s : State} {w : Word} {rest : List HostInput}
    (hi : s.inputs = .command w :: rest) (hc : s.cause = 0) :
    hostStep hp s =
      match decode w with
      | .error c => .next (enterFault c w (s.afterInput (.command w) rest))
      | .ok i =>
        if processorReady s.processor i then exec i (s.afterInput (.command w) rest)
        else .fault .processorStateUnset := by
  simp only [hostStep, hi, takeInput, takeCommand_of_cause (s := s.afterInput (.command w) rest) w hc]
  rfl

/-- The same of a step of this machine. -/
theorem step_command {s : State} {w : Word} {rest : List HostInput} (hi : s.inputs = .command w :: rest)
    (hc : s.cause = 0) :
    step s =
      match decode w with
      | .error c => .next (enterFault c w (s.afterInput (.command w) rest))
      | .ok i =>
        if processorReady s.processor i then exec i (s.afterInput (.command w) rest)
        else .fault .processorStateUnset :=
  hostStep_command _ hi hc

/-- A step on a motion of a block that is not halted, under any HMOVE_PROTOCOL (41_position_counter.md R158). -/
theorem hostStep_motion (hp : HmoveProtocol) {s : State} {o : Obj} {rest : List HostInput}
    (hi : s.inputs = .motion o :: rest) (hc : s.cause = 0) :
    hostStep hp s = .next (followMotion hp o (applyHmoveCommand o (s.afterInput (.motion o) rest))) := by
  simp only [hostStep, hi, takeInput, takeMotion_of_cause hp o (s := s.afterInput (.motion o) rest) hc]

/-- A step on RST. -/
theorem step_rst {s : State} {ps : PerObj ObjParams} {rest : List HostInput} (hi : s.inputs = .rst ps :: rest) :
    step s = if ps.paramsWf then .next (blockReset ps (s.afterInput (.rst ps) rest))
      else .refused .configurationRefused := by
  simp only [step, hostStep, hi, takeInput, takeReset]

/-- The reset state's memory is canonical: it lists nothing. -/
theorem reset_memory_wf : Memory.wf State.reset.memory = true := rfl

end Sys2Proof.Machine
end

