-- ==== Sys2Proof/Tests/Slice0.lean ====
section
/-! SUPPORT. Tests of the model against words and values the spec writes out (95_test_vectors.md, by vector id; 30_encoding.md),
and a witness for the hypotheses of each statement that has some. -/

namespace Sys2Proof.Tests
open Machine

/-! ### The checks refuse ill-formed parameters (vectors V-NEW-3, V-NEW-4) -/

theorem test_wf_accepts_40_39 : (ObjParams.mk 40 39).wf = true := by decide
theorem test_wf_refuses_period_0 : (ObjParams.mk 0 0).periodOk = false ∧ (ObjParams.mk 0 0).wf = false := by decide
theorem test_wf_refuses_reset_value_40 :
    (ObjParams.mk 160 40).resetValueOk = false ∧ (ObjParams.mk 160 40).wf = false := by decide
theorem test_wf_refuses_reset_value_at_period :
    (ObjParams.mk 5 5).resetBelowPeriod = false ∧ (ObjParams.mk 5 5).wf = false := by decide
/-- One bad object is enough. -/
theorem test_wf_refuses_one_bad_object :
    (PerObj.mk (ObjParams.mk 40 0) (.mk 40 0) (.mk 40 0) (.mk 40 0) (.mk 40 40)).paramsWf = false := by decide

/-! ### Decoding: every constructor from its word (R82 to R86, R95), and the refused words of 95_test_vectors.md 2.1 -/

theorem test_decode_resolve_words :
    [0x0000#16, 0x0001#16, 0x0002#16, 0x0003#16, 0x0004#16, 0x0005#16, 0x0006#16, 0x0007#16, 0x0008#16, 0x0009#16,
      0x000A#16, 0x000B#16, 0x000C#16].map decode =
    [.ok .resolveImm, .ok .resolveAbs, .ok .resolveImp, .ok .resolveAcc, .ok .resolveAbx, .ok .resolveAby,
      .ok .resolveZp, .ok .resolveZpx, .ok .resolveZpy, .ok .resolveInd, .ok .resolveIzx, .ok .resolveIzy,
      .ok .resolveRel] := by decide
theorem test_decode_nbytes_words :
    [0x4000#16, 0x4001#16, 0x4002#16, 0x4003#16, 0x4004#16, 0x4005#16, 0x4006#16, 0x4007#16, 0x4008#16, 0x4009#16,
      0x400A#16, 0x400B#16, 0x400C#16].map decode =
    [.ok .nbytesImm, .ok .nbytesAbs, .ok .nbytesImp, .ok .nbytesAcc, .ok .nbytesAbx, .ok .nbytesAby,
      .ok .nbytesZp, .ok .nbytesZpx, .ok .nbytesZpy, .ok .nbytesInd, .ok .nbytesIzx, .ok .nbytesIzy,
      .ok .nbytesRel] := by decide
theorem test_decode_reset_value_words :
    [0x8000#16, 0x8100#16, 0x8200#16, 0x8300#16, 0x8400#16, 0x9000#16, 0x9100#16, 0x9200#16, 0x9300#16, 0x9400#16].map
      decode =
    [.ok .resetP0, .ok .resetP1, .ok .resetM0, .ok .resetM1, .ok .resetBl,
      .ok .valueP0, .ok .valueP1, .ok .valueM0, .ok .valueM1, .ok .valueBl] := by decide
theorem test_decode_setv_clock_words :
    [0xA028#16, 0xA100#16, 0xA2C8#16, 0xA301#16, 0xA4FF#16, 0xB000#16, 0xB100#16, 0xB200#16, 0xB300#16, 0xB400#16].map
      decode =
    [.ok (.setvP0 40), .ok (.setvP1 0), .ok (.setvM0 200), .ok (.setvM1 1), .ok (.setvBl 255),
      .ok .clockP0, .ok .clockP1, .ok .clockM0, .ok .clockM1, .ok .clockBl] := by decide
theorem test_decode_hmove_words :
    [0xC030#16, 0xC1F0#16, 0xC280#16, 0xC301#16, 0xC47F#16, 0xD000#16, 0xD100#16, 0xD200#16, 0xD300#16, 0xD400#16].map
      decode =
    [.ok (.hmstartP0 0x30), .ok (.hmstartP1 0xF0), .ok (.hmstartM0 0x80), .ok (.hmstartM1 1), .ok (.hmstartBl 0x7F),
      .ok .hmapplyP0, .ok .hmapplyP1, .ok .hmapplyM0, .ok .hmapplyM1, .ok .hmapplyBl] := by decide
/-- V-DEC-1 to V-DEC-9. -/
theorem test_decode_illegal_words :
    [0x0010#16, 0x001D#16, 0x2001#16, 0xE000#16, 0xF000#16, 0xB500#16, 0xB800#16, 0xB001#16, 0x8001#16].map decode =
    List.replicate 9 (.error .illegalCommand) := by decide
theorem test_decode_invalid_modes :
    [0x000D#16, 0x000E#16, 0x000F#16, 0x400D#16, 0x400E#16, 0x400F#16].map decode =
    List.replicate 6 (.error .invalidAddressingMode) := by decide
theorem test_decode_table_word :
    decodeTableWord 16 0xA428 = some (.setvBl 40) ∧ decodeTableWord 16 0x000D = none ∧
      decodeTableWord 16 0x1A428 = none := by decide

/-! ### A small machine to try commands on -/

/-- PERIOD 40 everywhere; RESET_VALUE 5 for P0, 39 for the ball, else 0. -/
def benchParams : PerObj ObjParams := ⟨⟨40, 5⟩, ⟨40, 0⟩, ⟨40, 0⟩, ⟨1, 0⟩, ⟨40, 39⟩⟩

/-- The machine after RST with `benchParams`, these bytes in the memory image and these values in PC, X and Y. -/
def bench (mem : List Host.Cell) (pc : Word) (x y : Byte) : State :=
  { State.resetWith benchParams with
    memory := mem
    processor := { pc := pc, x := x, y := y, pcWritten := true, xWritten := true, yWritten := true } }

/-- `bench` with P0's instance as given: (internal_value, last_value, clocks_to_add). -/
def benchP0 (iv : Word) (last cta : Byte) : State := (bench [] 0 0 0).setCnt .p0 ⟨40, 5, iv, last, cta⟩

/-- What a command did: its reads and its result, or none where it stops. -/
def seen (o : Host.Outcome State Fault Refusal) : Option (List Event) :=
  match o with
  | .next t => some t.trace
  | .fault _ => none
  | .refused _ => none

/-- P0's instance after a command, as (internal_value, last_value, clocks_to_add), and the result. -/
def p0After (o : Host.Outcome State Fault Refusal) : Option (Word × Byte × Byte × Option Result) :=
  match o with
  | .next t => some ((t.cnt .p0).internalValue, (t.cnt .p0).lastValue, (t.cnt .p0).clocksToAdd, t.lastResult)
  | .fault _ => none
  | .refused _ => none

/-- The result of a RESOLVE. -/
def ea (a : Word) (extra : Bool) : Event := .returned (.ok (.resolved a extra))

/-! ### RESOLVE (95_test_vectors.md 2.3) -/

/-- V-IMM-1, V-IMM-2. -/
theorem test_resolve_imm : seen (exec .resolveImm (bench [] 0x0202 0 0)) = some [ea 0x0201 false] ∧
    seen (exec .resolveImm (bench [] 0x0000 0 0)) = some [ea 0xFFFF false] := by decide
/-- V-ABS-2: the operand straddles 0xFFFF. -/
theorem test_resolve_abs : seen (exec .resolveAbs (bench [(0, 0x80), (0xFFFF, 0x00)] 0x0001 0 0)) =
    some [.read 0xFFFF 0x00, .read 0x0000 0x80, ea 0x8000 false] := by decide
/-- V-IMP-1, V-ACC-1. -/
theorem test_resolve_imp_acc : seen (exec .resolveImp (bench [] 0x1234 1 2)) = some [ea 0 false] ∧
    seen (exec .resolveAcc (bench [] 0x1234 1 2)) = some [ea 0 false] := by decide
/-- V-ABX-2, V-ABX-3. -/
theorem test_resolve_abx : seen (exec .resolveAbx (bench [(0x1001, 0xF0), (0x1002, 0x12)] 0x1003 0x10 0)) =
      some [.read 0x1001 0xF0, .read 0x1002 0x12, ea 0x1300 true] ∧
    seen (exec .resolveAbx (bench [(0x1001, 0xFF), (0x1002, 0xFF)] 0x1003 0x01 0)) =
      some [.read 0x1001 0xFF, .read 0x1002 0xFF, ea 0x0000 true] := by decide
/-- V-ABX-5: the largest index within the page. -/
theorem test_resolve_abx_same_page : seen (exec .resolveAbx (bench [(0x1001, 0x00), (0x1002, 0x12)] 0x1003 0xFF 0)) =
    some [.read 0x1001 0x00, .read 0x1002 0x12, ea 0x12FF false] := by decide
/-- V-ABY-1, V-ABY-3 (X is not used). -/
theorem test_resolve_aby : seen (exec .resolveAby (bench [(0x1001, 0xFF), (0x1002, 0x10)] 0x1003 0 0xFF)) =
      some [.read 0x1001 0xFF, .read 0x1002 0x10, ea 0x11FE true] ∧
    seen (exec .resolveAby (bench [(0x1001, 0xFF), (0x1002, 0x10)] 0x1003 0x50 0x00)) =
      some [.read 0x1001 0xFF, .read 0x1002 0x10, ea 0x10FF false] := by decide
/-- V-ZP-2. -/
theorem test_resolve_zp : seen (exec .resolveZp (bench [(0x1001, 0xFF)] 0x1002 0 0)) =
    some [.read 0x1001 0xFF, ea 0x00FF false] := by decide
/-- V-ZPX-2. -/
theorem test_resolve_zpx : seen (exec .resolveZpx (bench [(0x1001, 0x80)] 0x1002 0xFF 0)) =
    some [.read 0x1001 0x80, ea 0x007F false] := by decide
/-- V-ZPY-1, V-ZPY-2. -/
theorem test_resolve_zpy : seen (exec .resolveZpy (bench [(0x1001, 0x10)] 0x1002 0 0x05)) =
      some [.read 0x1001 0x10, ea 0x0015 false] ∧
    seen (exec .resolveZpy (bench [(0x1001, 0xFF)] 0x1002 0 0x01)) = some [.read 0x1001 0xFF, ea 0x0000 false] := by
  decide
/-- V-IND-1: the page-wrap quirk. -/
theorem test_resolve_ind : seen (exec .resolveInd
      (bench [(0x0200, 0x12), (0x02FF, 0x34), (0x0300, 0x56), (0x2001, 0xFF), (0x2002, 0x02)] 0x2003 0 0)) =
    some [.read 0x2001 0xFF, .read 0x2002 0x02, .read 0x02FF 0x34, .read 0x0200 0x12, ea 0x1234 false] := by decide
/-- V-IND-3: the quirk at the top of memory. -/
theorem test_resolve_ind_top : seen (exec .resolveInd
      (bench [(0x2001, 0xFF), (0x2002, 0xFF), (0xFF00, 0x22), (0xFFFF, 0x11)] 0x2003 0 0)) =
    some [.read 0x2001 0xFF, .read 0x2002 0xFF, .read 0xFFFF 0x11, .read 0xFF00 0x22, ea 0x2211 false] := by decide
/-- V-IZX-2. -/
theorem test_resolve_izx : seen (exec .resolveIzx
      (bench [(0x0000, 0x90), (0x00FF, 0x00), (0x3001, 0xFE)] 0x3002 0x01 0)) =
    some [.read 0x3001 0xFE, .read 0x00FF 0x00, .read 0x0000 0x90, ea 0x9000 false] := by decide
/-- V-IZX-3. -/
theorem test_resolve_izx_wraps : seen (exec .resolveIzx
      (bench [(0x0010, 0xAA), (0x0011, 0xBB), (0x3001, 0x80)] 0x3002 0x90 0)) =
    some [.read 0x3001 0x80, .read 0x0010 0xAA, .read 0x0011 0xBB, ea 0xBBAA false] := by decide
/-- V-IZY-2. -/
theorem test_resolve_izy : seen (exec .resolveIzy
      (bench [(0x0086, 0x28), (0x0087, 0x40), (0x3001, 0x86)] 0x3002 0 0xE0)) =
    some [.read 0x3001 0x86, .read 0x0086 0x28, .read 0x0087 0x40, ea 0x4108 true] := by decide
/-- V-IZY-3. -/
theorem test_resolve_izy_wraps : seen (exec .resolveIzy
      (bench [(0x0000, 0xFF), (0x00FF, 0xFF), (0x3001, 0xFF)] 0x3002 0 0x01)) =
    some [.read 0x3001 0xFF, .read 0x00FF 0xFF, .read 0x0000 0xFF, ea 0x0000 true] := by decide
/-- V-REL-3, V-REL-4. -/
theorem test_resolve_rel : seen (exec .resolveRel (bench [(0x0301, 0x80)] 0x0302 0 0)) =
      some [.read 0x0301 0x80, ea 0x0282 false] ∧
    seen (exec .resolveRel (bench [(0x0000, 0xFE)] 0x0001 0 0)) = some [.read 0x0000 0xFE, ea 0xFFFF false] := by
  decide
/-- V-REL-2, V-REL-7: a crossing is not reported. -/
theorem test_resolve_rel_forward : seen (exec .resolveRel (bench [(0x0301, 0x7F)] 0x0302 0 0)) =
      some [.read 0x0301 0x7F, ea 0x0381 false] ∧
    seen (exec .resolveRel (bench [(0x10FD, 0x05)] 0x10FE 0 0)) = some [.read 0x10FD 0x05, ea 0x1103 false] := by
  decide

/-! ### NBYTES (95_test_vectors.md 2.2) -/

theorem test_nbytes : [Instr.nbytesImm, .nbytesAbs, .nbytesImp, .nbytesAcc, .nbytesAbx, .nbytesAby, .nbytesZp, .nbytesZpx,
      .nbytesZpy, .nbytesInd, .nbytesIzx, .nbytesIzy, .nbytesRel].map (fun i => seen (exec i (bench [] 0 0 0))) =
    [2, 3, 1, 1, 3, 3, 2, 2, 2, 3, 2, 2, 2].map (fun n => some [.returned (.ok (.length n))]) := by decide

/-! ### Counter commands (95_test_vectors.md 2.4) -/

/-- V-NEW-2, on the ball; and P0, whose RESET_VALUE is 5. -/
theorem test_new : (bench [] 0 0 0).cnt .bl = ⟨40, 39, 156, 39, 0⟩ ∧ (bench [] 0 0 0).cnt .p0 = ⟨40, 5, 20, 5, 0⟩ := by
  decide
/-- V-RST-1. -/
theorem test_reset : p0After (exec .resetP0 (benchP0 103 25 3)) = some (20, 25, 3, some (.ok .nothing)) := by decide
/-- V-VAL-1. -/
theorem test_value : [159, 0, 3, 4].map (fun iv => p0After (exec .valueP0 (benchP0 iv 0 0))) =
    [some (159, 0, 0, some (.ok (.position 39))), some (0, 0, 0, some (.ok (.position 0))),
      some (3, 0, 0, some (.ok (.position 0))), some (4, 0, 0, some (.ok (.position 1)))] := by decide
/-- V-SET-2; V-CLK-8, first command. -/
theorem test_set_value : p0After (exec (.setvP0 39) (benchP0 7 1 2)) = some (156, 1, 2, some (.ok .nothing)) ∧
    p0After (exec (.setvP0 5) (benchP0 3 0 0)) = some (20, 0, 0, some (.ok .nothing)) := by decide
/-- V-SET-3: FAULT 0x03, FAULT_INFO 0xA028, the instance unchanged, halted. -/
theorem test_set_value_out_of_domain :
    (match exec (.setvP0 40) (benchP0 7 1 2) with
      | .next t => some (t.fault, t.faultInfo, t.cnt .p0, t.halted, t.lastResult)
      | .fault _ => none
      | .refused _ => none) =
    some (0x03, 0xA028, ⟨40, 5, 7, 1, 2⟩, true, some (.err .counterDomain)) := by decide
/-- V-CLK-1, last CLOCK; V-CLK-2, the wrap. -/
theorem test_clock : p0After (exec .clockP0 (benchP0 3 0 0)) = some (4, 1, 0, some (.ok (.transition true))) ∧
    p0After (exec .clockP0 (benchP0 159 39 0)) = some (0, 0, 0, some (.ok (.transition true))) := by decide
/-- V-CLK-7 and V-CLK-8, the CLOCKs after the move: off a boundary, with and without a transition. -/
theorem test_clock_off_boundary : p0After (exec .clockP0 (benchP0 20 7 0)) = some (21, 5, 0, some (.ok (.transition true))) ∧
    p0After (exec .clockP0 (benchP0 21 5 0)) = some (22, 5, 0, some (.ok (.transition false))) := by decide
/-- V-HM-7, V-HM-11, V-HM-8 (overwritten). -/
theorem test_start_hmove : p0After (exec (.hmstartP0 0x7F) (benchP0 12 3 0)) = some (12, 3, 7, some (.ok .nothing)) ∧
    p0After (exec (.hmstartP0 0xC0) (benchP0 12 3 0)) = some (12, 3, 0xFC, some (.ok .nothing)) ∧
    p0After (exec (.hmstartP0 0x30) (benchP0 12 3 5)) = some (12, 3, 3, some (.ok .nothing)) := by decide
/-- V-HM-4's two APPLYs, V-HM-9. -/
theorem test_apply_hmove : p0After (exec .hmapplyP0 (benchP0 12 3 2)) = some (12, 3, 1, some (.ok (.motion true))) ∧
    p0After (exec .hmapplyP0 (benchP0 12 3 1)) = some (12, 3, 0, some (.ok (.motion false))) ∧
    p0After (exec .hmapplyP0 (benchP0 12 3 0)) = some (12, 3, 0, some (.ok (.motion false))) := by decide

/-- The internal values of the five instances after a command. -/
def internals (o : Host.Outcome State Fault Refusal) : List Word :=
  match o with
  | .next t => [Obj.p0, .p1, .m0, .m1, .bl].map (fun o => (t.cnt o).internalValue)
  | .fault _ => []
  | .refused _ => []

/-- Each object's SET_VALUE moves its own instance and no other (10_state.md R43; M1's period is 1 here). -/
theorem test_set_value_each_object :
    [internals (exec (.setvP0 1) (bench [] 0 0 0)), internals (exec (.setvP1 1) (bench [] 0 0 0)),
      internals (exec (.setvM0 1) (bench [] 0 0 0)), internals (exec (.setvM1 0) (bench [] 0 0 0)),
      internals (exec (.setvBl 1) (bench [] 0 0 0))] =
    [[4, 0, 0, 0, 156], [20, 4, 0, 0, 156], [20, 0, 4, 0, 156], [20, 0, 0, 0, 156], [20, 0, 0, 0, 4]] := by decide
/-- Each object's CLOCK ticks its own instance and no other; M1 has period 1. -/
theorem test_clock_each_object :
    [Instr.clockP0, .clockP1, .clockM0, .clockM1, .clockBl].map (fun i => internals (exec i (bench [] 0 0 0))) =
    [[21, 0, 0, 0, 156], [20, 1, 0, 0, 156], [20, 0, 1, 0, 156], [20, 0, 0, 1, 156], [20, 0, 0, 0, 157]] := by decide

/-! ### Steps (95_test_vectors.md 2.5) -/

/-- FAULT, FAULT_INFO and the last result after a step. -/
def faultAfter (o : Host.Outcome State Fault Refusal) : Option (Byte × Word × Option Result) :=
  match o with
  | .next t => some (t.readFault, t.readFaultInfo, t.lastResult)
  | .fault _ => none
  | .refused _ => none

/-- Why a step stopped. -/
def stopOf (o : Host.Outcome State Fault Refusal) : Option Fault :=
  match o with
  | .next _ => none
  | .fault f => some f
  | .refused _ => none

/-- The HMOVE_PROTOCOL of program P3: "after each APPLY_HMOVE, issue one CLOCK"; here it stops on CONT = 0. -/
def protocolP3 : HmoveProtocol := ⟨fun _ _ _ => 1, fun _ _ cont => !cont⟩

/-- What the host has left to do after a step. -/
def inputsAfter (o : Host.Outcome State Fault Refusal) : Option (List HostInput) :=
  match o with
  | .next t => some t.inputs
  | .fault _ => none
  | .refused _ => none

/-- P3, steps 11 and 15: APPLY_HMOVE leaves the position alone, and the host's CLOCK word follows; CONT = 0 ends the motion. -/
theorem test_motion_step :
    p0After (hostStep protocolP3 { benchP0 41 10 3 with inputs := [.motion .p0] }) =
      some (41, 10, 2, some (.ok (.motion true))) ∧
    inputsAfter (hostStep protocolP3 { benchP0 41 10 3 with inputs := [.motion .p0] }) =
      some [.command 0xB000, .motion .p0] ∧
    inputsAfter (hostStep protocolP3 { benchP0 43 10 1 with inputs := [.motion .p0, .writeX 1] }) =
      some [.command 0xB000, .writeX 1] := by decide

/-- Whether a step or a command answers a next state. -/
def answersNext (o : Host.Outcome State Fault Refusal) : Bool :=
  match o with
  | .next _ => true
  | .fault _ => false
  | .refused _ => false

/-- No register read faults at reset, and each RESOLVE runs as the first command of a host that has done R224's item 3. -/
theorem test_resolve_from_reset :
    [AddrMode.immediate, .absolute, .implied, .accumulator, .absoluteX, .absoluteY, .zeroPage, .zeroPageX, .zeroPageY,
      .indirect, .indexedIndirect, .indirectIndexed, .relative].all (fun m =>
        answersNext (exec (.resolveOf m) State.reset) &&
        answersNext (step (State.reset.withFetchWord 16 (encode (.resolveOf m)).toNat))) = true := by decide

/-- V-FLT-1, V-FLT-4. -/
theorem test_step_faulting_words :
    faultAfter (step ((bench [] 0 0 0).withFetchWord 16 0x000D)) =
      some (0x01, 0x000D, some (.err .invalidAddressingMode)) ∧
    faultAfter (step ((bench [] 0 0 0).withFetchWord 16 0xE123)) = some (0x02, 0xE123, some (.err .illegalCommand)) := by
  decide
/-- V-FLT-2. -/
theorem test_step_halted :
    stopOf (step ({ bench [] 0 0 0 with fault := 0x01, faultInfo := 0x000D }.withFetchWord 16 0xB000)) = some .halted := by
  decide
/-- V-FLT-3. -/
theorem test_step_rst_leaves_halt :
    faultAfter (step { bench [] 0 0 0 with fault := 0x01, faultInfo := 0x000D, inputs := [.rst benchParams] }) =
      some (0x00, 0x0000, none) := by decide
/-- R224 item 3, D25: AbsoluteX before the host has written X; ZeroPage needs only PC. -/
theorem test_step_unwritten_x :
    stopOf (step { bench [(0x1001, 0x80)] 0x1002 0 0 with
      inputs := [.command 0x0004], processor := ⟨0x1002, 0, 0, true, false, true⟩ }) = some .processorStateUnset ∧
    seen (step { bench [(0x1001, 0x80)] 0x1002 0 0 with
      inputs := [.command 0x0006], processor := ⟨0x1002, 0, 0, true, false, false⟩ }) =
      some [.input (.command 0x0006), .read 0x1001 0x80, ea 0x0080 false] := by decide
/-- R73: a RESOLVE sees what the host wrote before it. -/
theorem test_step_host_write :
    Memory.wf (Memory.write (Memory.write [(5, 1)] 9 2) 3 4) = true ∧
      Memory.write (Memory.write [(5, 1)] 9 2) 3 4 = [(3, 4), (5, 1), (9, 2)] ∧
      Memory.write [(5, 1)] 5 7 = [(5, 7)] := by decide
/-- Every kind of row runs as the first instruction after reset, whatever the open parameters are (log 2). -/
theorem test_step_after_reset :
    [0x0000, 0x0009, 0x000B, 0x400C, 0x8000, 0x9100, 0xA200, 0xB300, 0xC47F, 0xD000].map
      (fun w => stopOf (step (State.reset.withFetchWord 16 w))) = List.replicate 10 none := by decide

/-! ### Witnesses: states and operands that meet the hypotheses of each statement, at the ends of the ranges it speaks of -/

/-- Every instance of the bench is legal (10_state.md R37, R38). -/
theorem bench_counter_inv (mem : List Host.Cell) (pc : Word) (x y : Byte) (o : Obj) :
    ((bench mem pc x y).cnt o).Inv := by
  have h : (bench mem pc x y).cnt o = Counter.new (perObjGet benchParams o) := by cases o <;> rfl
  rw [h]
  exact Counter.new_inv (by cases o <;> decide)
theorem bench_inv (mem : List Host.Cell) (h : Memory.wf mem = true) (pc : Word) (x y : Byte) :
    (bench mem pc x y).Inv :=
  ⟨bench_counter_inv mem pc x y, (by decide : (0x00#8).extractLsb' 2 6 = 0#6), h⟩

theorem witness_ResolveAbsoluteReadsLittleEndian :
    Answers (bench [(0, 0x80), (0xFFFF, 0x00)] 0x0001 0 0) [(0x0001 - 2, 0x00), (0x0001 - 1, 0x80)] :=
  ⟨by decide, by decide, trivial⟩
theorem witness_ResolveAbsoluteXAddsIndexAndTellsPageCrossing : ∃ (s : State) (lo hi : Byte) (base ea : Word),
    Answers s [(s.pc - 2, lo), (s.pc - 1, hi)] ∧ base = hi ++ lo ∧ ea = base + s.x.zeroExtend 16 :=
  ⟨bench [(0x1001, 0xF0), (0x1002, 0x12)] 0x1003 0x10 0, 0xF0, 0x12, 0x12F0, 0x1300,
    ⟨by decide, by decide, trivial⟩, by decide, by decide⟩
theorem witness_ResolveAbsoluteYAddsIndexAndTellsPageCrossing : ∃ (s : State) (lo hi : Byte) (base ea : Word),
    Answers s [(s.pc - 2, lo), (s.pc - 1, hi)] ∧ base = hi ++ lo ∧ ea = base + s.y.zeroExtend 16 :=
  ⟨bench [(0x1001, 0xFF), (0x1002, 0x10)] 0x1003 0 0xFF, 0xFF, 0x10, 0x10FF, 0x11FE,
    ⟨by decide, by decide, trivial⟩, by decide, by decide⟩
theorem witness_ResolveZeroPageIsOperandByte : Answers (bench [(0x1001, 0xFF)] 0x1002 0 0) [(0x1002 - 1, 0xFF)] :=
  ⟨by decide, trivial⟩
theorem witness_ResolveZeroPageXWrapsInPageZero :
    Answers (bench [(0x1001, 0xFF)] 0x1002 0x01 0) [(0x1002 - 1, 0xFF)] := ⟨by decide, trivial⟩
theorem witness_ResolveZeroPageYWrapsInPageZero :
    Answers (bench [(0x1001, 0xFF)] 0x1002 0 0x01) [(0x1002 - 1, 0xFF)] := ⟨by decide, trivial⟩
theorem witness_ResolveIndirectReadsTargetWithinPage :
    ∃ (s : State) (plo phi tlo thi : Byte) (reads : List (Word × Byte)),
      reads = [(s.pc - 2, plo), (s.pc - 1, phi), (phi ++ plo, tlo), (phi ++ (plo + 1), thi)] ∧ Answers s reads :=
  ⟨bench [(0x0200, 0x12), (0x02FF, 0x34), (0x2001, 0xFF), (0x2002, 0x02)] 0x2003 0 0, 0xFF, 0x02, 0x34, 0x12, _, rfl,
    by decide, by decide, by decide, by decide, trivial⟩
theorem witness_ResolveIndexedIndirectReadsPointerInPageZero :
    ∃ (s : State) (b tlo thi : Byte) (reads : List (Word × Byte)),
      reads = [(s.pc - 1, b), (0x00#8 ++ (b + s.x), tlo), (0x00#8 ++ (b + s.x + 1), thi)] ∧ Answers s reads :=
  ⟨bench [(0x0000, 0x90), (0x00FF, 0x00), (0x3001, 0xFE)] 0x3002 0x01 0, 0xFE, 0x00, 0x90, _, rfl,
    by decide, by decide, by decide, trivial⟩
theorem witness_ResolveIndirectIndexedAddsYAfterPointer :
    ∃ (s : State) (z blo bhi : Byte) (base ea : Word) (reads : List (Word × Byte)),
      reads = [(s.pc - 1, z), (0x00#8 ++ z, blo), (0x00#8 ++ (z + 1), bhi)] ∧ Answers s reads ∧
        base = bhi ++ blo ∧ ea = base + s.y.zeroExtend 16 :=
  ⟨bench [(0x0000, 0xFF), (0x00FF, 0xFF), (0x3001, 0xFF)] 0x3002 0 0x01, 0xFF, 0xFF, 0xFF, 0xFFFF, 0x0000, _, rfl,
    ⟨by decide, by decide, by decide, trivial⟩, by decide, by decide⟩
theorem witness_ResolveRelativeAddsToAdvancedPC :
    Answers (bench [(0x0000, 0xFE)] 0x0001 0 0) [(0x0001 - 1, 0xFE)] := ⟨by decide, trivial⟩
/-- A motion of three pulses with a CLOCK on each answer, and one with none and nothing pending. -/
theorem witness_MotionFollowsItsProtocol :
    (∃ s : State, s.inputs = [.motion .p0] ∧ s.cause = 0 ∧ (s.cnt .p0).Inv ∧ 3 = max 1 (s.cnt .p0).clocksToAdd.toNat) ∧
    (∃ s : State, s.inputs = [.motion .m1] ∧ s.cause = 0 ∧ (s.cnt .m1).Inv ∧ 1 = max 1 (s.cnt .m1).clocksToAdd.toNat) ∧
    (∀ k, ∃ hp : HmoveProtocol, (∀ h cont, hp.extraClocks h .p0 cont = k) ∧ ∀ h cont, hp.stops h .p0 cont = !cont) :=
  ⟨⟨{ benchP0 41 10 3 with inputs := [.motion .p0] }, rfl, by decide, by decide, by decide⟩,
    ⟨{ bench [] 0 0 0 with inputs := [.motion .m1] }, rfl, by decide, by decide, by decide⟩,
    fun k => ⟨⟨fun _ _ _ => k, fun _ _ cont => !cont⟩, fun _ _ => rfl, fun _ _ => rfl⟩⟩
theorem witness_CounterValueReturnsPosition : ((benchP0 159 39 0).cnt .p0).Inv := by decide
/-- The ends of the domain of SET_VALUE, 0 and period - 1. -/
theorem witness_CounterSetValueWritesPosition :
    (0#8).toNat < ((bench [] 0 0 0).cnt .p0).period.toNat ∧ (39#8).toNat < ((bench [] 0 0 0).cnt .p0).period.toNat := by
  decide
/-- The first value outside it, and the last. -/
theorem witness_CounterSetValueOutOfDomainFaults :
    ((bench [] 0 0 0).cnt .p0).period.toNat ≤ (40#8).toNat ∧ ((bench [] 0 0 0).cnt .p0).period.toNat ≤ (255#8).toNat := by
  decide
/-- On the wrap, on a boundary, and off it. -/
theorem witness_CounterClockStepsAndTellsTransition :
    ((benchP0 159 39 0).cnt .p0).Inv ∧ ((benchP0 3 0 0).cnt .p0).Inv ∧ ((benchP0 0 0 0).cnt .p0).Inv := by decide
/-- Period 40 from the last position, and period 1; a run that holds a SET_VALUE of another instance, at the last value of its
domain, and a RESOLVE. -/
theorem witness_ClockRunWrapsAndTransitsEveryFourth :
    (benchP0 156 39 0).cause = 0 ∧
    (∀ i ∈ [Instr.clockP0, .setvBl 39, .resolveImm, .clockP0], (benchP0 156 39 0).Admits i) ∧
    (((benchP0 156 39 0).cnt .p0).Inv ∧ ((benchP0 156 39 0).cnt .p0).internalValue.toNat = 4 * 39 ∧
      ((benchP0 156 39 0).cnt .p0).lastValue.toNat = 39 ∧ 1 < ((benchP0 156 39 0).cnt .p0).period.toNat) ∧
    (((bench [] 0 0 0).cnt .m1).Inv ∧ ((bench [] 0 0 0).cnt .m1).internalValue.toNat = 4 * 0 ∧
      ((bench [] 0 0 0).cnt .m1).lastValue.toNat = 0) ∧
    (∀ i ∈ [Instr.clockP0, .setvBl 39, .resolveImm, .clockP0], IsCounterCommand i .p0 → i = .clockOn .p0) ∧
    2 = [Instr.clockP0, .setvBl 39, .resolveImm, .clockP0].count (.clockOn .p0) := by
  refine ⟨by decide, fun i hi => ?_, by decide, by decide, ?_, by decide⟩
  · simp only [List.mem_cons, List.not_mem_nil, or_false] at hi
    rcases hi with rfl | rfl | rfl | rfl
    · exact ⟨rfl, fun o v e => by cases o <;> cases e⟩
    · exact ⟨rfl, fun o v e => by cases o <;> cases e; decide⟩
    · exact ⟨rfl, fun o v e => by cases o <;> cases e⟩
    · exact ⟨rfl, fun o v e => by cases o <;> cases e⟩
  intro i hi h
  simp only [List.mem_cons, List.not_mem_nil, or_false] at hi
  rcases hi with rfl | rfl | rfl | rfl
  · rfl
  · rcases h with h | h | ⟨v, h⟩ | h | ⟨hm, h⟩ | h <;> cases h
  · rcases h with h | h | ⟨v, h⟩ | h | ⟨hm, h⟩ | h <;> cases h
  · rfl
theorem witness_ValueAfterSetOrResetIsTheValueWritten :
    ((benchP0 103 25 3).cnt .p0).Inv ∧ (39#8).toNat < ((benchP0 103 25 3).cnt .p0).period.toNat := by decide
theorem witness_ClockAfterMoveReportsTransitionOffBoundary :
    ((benchP0 30 7 0).cnt .p0).Inv ∧ 1 < ((benchP0 30 7 0).cnt .p0).period.toNat ∧
      ((benchP0 30 7 0).cnt .p0).resetValue ≠ ((benchP0 30 7 0).cnt .p0).lastValue ∧
      (39#8).toNat < ((benchP0 30 7 0).cnt .p0).period.toNat ∧ 39#8 ≠ ((benchP0 30 7 0).cnt .p0).lastValue := by decide
theorem witness_PeriodOneNeverTransits :
    ((bench [] 0 0 0).cnt .m1).Inv ∧ ((bench [] 0 0 0).cnt .m1).period = 1#8 := by decide
theorem witness_NoCommandWritesProcessorOrMemory :
    ∃ t, exec .resolveAbx (bench [] 0x1003 1 2) = .next t := ⟨_, rfl⟩
theorem witness_ResolverWritesNothingButReads : ∀ o, ¬ IsCounterCommand .resolveInd o := by
  intro o h
  rcases h with h | h | ⟨v, h⟩ | h | ⟨hm, h⟩ | h <;> cases o <;> cases h
theorem witness_ExtraOnlyForThreeIndexedModes :
    ∃ t, exec .resolveAbx (bench [(0x1001, 0xFF), (0x1002, 0xFF)] 0x1003 0x01 0) = .next t ∧
      t.lastResult = some (.ok (.resolved 0x0000 true)) := ⟨_, rfl, by decide⟩
theorem witness_UnreadIndexRegistersDoNotMatter :
    ∃ t, exec .resolveImp (bench [] 0x1003 1 2) = .next t ∧
      Instr.resolveImp ∉ [Instr.resolveAbx, .resolveZpx, .resolveIzx] ∧
      Instr.resolveImp ∉ [Instr.resolveAby, .resolveZpy, .resolveIzy] := ⟨_, rfl, by decide, by decide⟩
/-- For the Ok case, and for a SET_VALUE at the first value outside its domain. -/
theorem witness_CounterCommandsAreIndependent :
    (IsCounterCommand .clockP1 .p1 ∧ (benchP0 3 0 0).cnt .p1 = (benchP0 159 39 7).cnt .p1) ∧
    (IsCounterCommand (.setvP1 40) .p1 ∧ ((benchP0 3 0 0).cnt .p1).period.toNat ≤ (40#8).toNat) :=
  ⟨⟨.inr (.inr (.inr (.inl rfl))), by decide⟩, ⟨.inr (.inr (.inl ⟨40, rfl⟩)), by decide⟩⟩
/-- A CLOCK, and a SET_VALUE at the last value of its domain. -/
theorem witness_ClocksOnTwoObjectsCommute :
    (benchP0 3 0 0).cause = 0 ∧ (benchP0 3 0 0).Admits .clockP0 ∧ (benchP0 3 0 0).Admits (.setvBl 39) ∧
      Obj.p0 ≠ Obj.bl ∧ IsCounterCommand .clockP0 .p0 ∧ IsCounterCommand (.setvBl 39) .bl :=
  ⟨by decide, ⟨rfl, fun o v e => by cases o <;> cases e⟩, ⟨rfl, fun o v e => by cases o <;> cases e; decide⟩,
    by decide, .inr (.inr (.inr (.inl rfl))), .inr (.inr (.inl ⟨39, rfl⟩))⟩
theorem witness_InternalValueWrittenByThreeCommands :
    ∃ t, exec .clockP0 (benchP0 3 0 0) = .next t ∧
      (t.cnt .p0).internalValue ≠ ((benchP0 3 0 0).cnt .p0).internalValue := ⟨_, rfl, by decide⟩
theorem witness_LastValueWrittenByClockOnly :
    ∃ t, exec .clockP0 (benchP0 3 0 0) = .next t ∧ (t.cnt .p0).lastValue ≠ ((benchP0 3 0 0).cnt .p0).lastValue :=
  ⟨_, rfl, by decide⟩
theorem witness_ClocksToAddWrittenByMotionCommands :
    (∃ t, exec (.hmstartP0 0x30) (benchP0 3 0 0) = .next t ∧
      (t.cnt .p0).clocksToAdd ≠ ((benchP0 3 0 0).cnt .p0).clocksToAdd) ∧
    (∃ t, exec .hmapplyP0 (benchP0 3 0 1) = .next t ∧
      (t.cnt .p0).clocksToAdd ≠ ((benchP0 3 0 1).cnt .p0).clocksToAdd) ∧
    ((benchP0 3 0 1).cnt .p0).clocksToAdd ≠ 0 := ⟨⟨_, rfl, by decide⟩, ⟨_, rfl, by decide⟩, by decide⟩
theorem witness_ConstantsOfAnInstanceNeverChange : ∃ t, exec (.setvP0 40) (benchP0 3 0 0) = .next t := ⟨_, rfl⟩
theorem witness_EncodeOfDecodeIsTheWord : decode 0xA4FF#16 = .ok (.setvBl 255) := by decide
/-- A RESOLVE that needs X and not Y, and a counter command that needs nothing of the host. -/
theorem witness_StepRunsTheDecodedCommand :
    (∃ (s : State), s.inputs = [.command 0x0004] ∧ s.cause = 0 ∧ decode 0x0004#16 = .ok .resolveAbx ∧
      ∀ m, Instr.resolveMode .resolveAbx = some m → s.processor.pcWritten = true ∧
        (m ∈ [AddrMode.absoluteX, .zeroPageX, .indexedIndirect] → s.processor.xWritten = true) ∧
        (m ∈ [AddrMode.absoluteY, .zeroPageY, .indirectIndexed] → s.processor.yWritten = true)) ∧
    (∃ (s : State), s.inputs = [.command 0xB000] ∧ s.cause = 0 ∧ decode 0xB000#16 = .ok .clockP0 ∧
      Instr.resolveMode .clockP0 = none ∧ s.processor.pcWritten = false) :=
  ⟨⟨{ bench [] 0x1003 1 0 with inputs := [.command 0x0004], processor := ⟨0x1003, 1, 0, true, true, false⟩ }, rfl,
      by decide, by decide, fun m h => by cases h; decide⟩,
    ⟨{ State.resetWith benchParams with inputs := [.command 0xB000] }, rfl, by decide, by decide, rfl, rfl⟩⟩
theorem witness_FaultingCommandEntersItsFault :
    (∃ s : State, s.inputs = [.command 0x000D] ∧ s.cause = 0 ∧ decode 0x000D#16 = .error .invalidAddressingMode) ∧
    (∃ s : State, s.inputs = [.command 0x001D] ∧ s.cause = 0 ∧ decode 0x001D#16 = .error .illegalCommand) ∧
    (∃ s : State, s.inputs = [.command 0xA028] ∧ s.cause = 0 ∧ decode 0xA028#16 = .ok (.setvOn .p0 40) ∧
      (s.cnt .p0).period.toNat ≤ (40#8).toNat) :=
  ⟨⟨(bench [] 0 0 0).withFetchWord 16 0x000D, rfl, by decide, by decide⟩,
    ⟨(bench [] 0 0 0).withFetchWord 16 0x001D, rfl, by decide, by decide⟩,
    ⟨(bench [] 0 0 0).withFetchWord 16 0xA028, rfl, by decide, by decide, by decide⟩⟩
theorem witness_NbytesReturnsModeLength : ∃ s : State, s.inputs = [.command 0x400F] ∧ s.cause = 0 :=
  ⟨(bench [] 0 0 0).withFetchWord 16 0x400F, rfl, by decide⟩
theorem witness_InvalidModeIsNeverDefaulted : ∃ s : State, s.inputs = [.command 0x400D] ∧ s.cause = 0 :=
  ⟨(bench [] 0 0 0).withFetchWord 16 0x400D, rfl, by decide⟩
theorem witness_MalformedWordOutranksInvalidMode :
    ∃ s : State, s.inputs = [.command 0x001D] ∧ s.cause = 0 ∧ (0x001D#16).toNat < 0x8000 ∧
      (0x001D#16).toNat / 16 % 1024 ≠ 0 := ⟨(bench [] 0 0 0).withFetchWord 16 0x001D, rfl, by decide, by decide, by decide⟩
theorem witness_HaltedBlockTakesNoCommand :
    (∃ s : State, s.inputs = [.command 0xB000] ∧ s.cause ≠ 0) ∧ (∃ s : State, s.inputs = [.motion .m1] ∧ s.cause ≠ 0) :=
  ⟨⟨{ bench [] 0 0 0 with fault := 0x03, inputs := [.command 0xB000] }, rfl, by decide⟩,
    ⟨{ bench [] 0 0 0 with fault := 0x03, inputs := [.motion .m1] }, rfl, by decide⟩⟩
/-- A halted block under RST, and under a host write. -/
theorem witness_OnlyResetLeavesTheHaltedState :
    (∃ s t : State, s.cause ≠ 0 ∧ s.inputs = [.rst benchParams] ∧ step s = .next t) ∧
    (∃ s t : State, s.cause ≠ 0 ∧ s.inputs = [.writePC 0x1000] ∧ step s = .next t) :=
  ⟨⟨{ bench [] 0 0 0 with fault := 0x03, inputs := [.rst benchParams] }, _, by decide, rfl, rfl⟩,
    ⟨{ bench [] 0 0 0 with fault := 0x03, inputs := [.writePC 0x1000] }, _, by decide, rfl, rfl⟩⟩
/-- FAULT changed by RST, by a faulting word, and by SET_VALUE outside its domain. -/
theorem witness_FaultWrittenOnlyByFaultEntry :
    (∃ s t : State, step s = .next t ∧ s.inputs = [.rst benchParams] ∧ t.fault ≠ s.fault) ∧
    (∃ s t : State, step s = .next t ∧ s.inputs = [.command 0x000D] ∧ t.fault ≠ s.fault) ∧
    (∃ s t : State, step s = .next t ∧ s.inputs = [.command 0xA028] ∧ t.faultInfo ≠ s.faultInfo) :=
  ⟨⟨{ bench [] 0 0 0 with fault := 0x03, inputs := [.rst benchParams] }, _, rfl, rfl, by decide⟩,
    ⟨(bench [] 0 0 0).withFetchWord 16 0x000D, _, rfl, rfl, by decide⟩,
    ⟨(bench [] 0 0 0).withFetchWord 16 0xA028, _, rfl, rfl, by decide⟩⟩
/-- The corners of the construction domain: period 1 with 0, 255 with 39, and rv = per - 1. -/
theorem witness_BlockResetConstructsEveryInstance :
    ∃ (s : State) (ps : PerObj ObjParams), s.inputs = [.rst ps] ∧
      ∀ o, 1 ≤ (perObjGet ps o).period.toNat ∧ (perObjGet ps o).resetValue.toNat ≤ 39 ∧
        (perObjGet ps o).resetValue.toNat < (perObjGet ps o).period.toNat :=
  ⟨{ bench [] 0 0 0 with inputs := [.rst ⟨⟨1, 0⟩, ⟨255, 39⟩, ⟨40, 39⟩, ⟨160, 0⟩, ⟨2, 1⟩⟩] }, _, rfl,
    fun o => by cases o <;> decide⟩
/-- Each way to leave the domain, at its edge. -/
theorem witness_IllegalConfigurationIsRefused :
    (ObjParams.mk 0 0).period.toNat = 0 ∧ 39 < (ObjParams.mk 255 40).resetValue.toNat ∧
      (ObjParams.mk 39 39).period.toNat ≤ (ObjParams.mk 39 39).resetValue.toNat ∧
      ∃ s : State, s.inputs = [.rst ⟨⟨40, 0⟩, ⟨255, 40⟩, ⟨40, 0⟩, ⟨40, 0⟩, ⟨40, 0⟩⟩] :=
  ⟨by decide, by decide, by decide, { bench [] 0 0 0 with inputs := [.rst _] }, rfl⟩
/-- PC never written; X never written for a mode that reads X; Y never written for a mode that reads Y. -/
theorem witness_ResolveBeforeProcessorStateStops :
    (∃ s : State, s.inputs = [.command 0x0006] ∧ s.cause = 0 ∧ decode 0x0006#16 = .ok .resolveZp ∧
      Instr.resolveMode .resolveZp = some .zeroPage ∧ s.processor.pcWritten = false) ∧
    (∃ s : State, s.inputs = [.command 0x000A] ∧ s.cause = 0 ∧ decode 0x000A#16 = .ok .resolveIzx ∧
      Instr.resolveMode .resolveIzx = some .indexedIndirect ∧ s.processor.pcWritten = true ∧
      s.processor.xWritten = false) ∧
    (∃ s : State, s.inputs = [.command 0x000B] ∧ s.cause = 0 ∧ decode 0x000B#16 = .ok .resolveIzy ∧
      Instr.resolveMode .resolveIzy = some .indirectIndexed ∧ s.processor.pcWritten = true ∧
      s.processor.yWritten = false) :=
  ⟨⟨{ State.resetWith benchParams with inputs := [.command 0x0006] }, rfl, by decide, by decide, rfl, rfl⟩,
    ⟨{ bench [] 0 0 0 with inputs := [.command 0x000A], processor := ⟨0, 0, 0, true, false, true⟩ }, rfl,
      by decide, by decide, rfl, rfl, rfl⟩,
    ⟨{ bench [] 0 0 0 with inputs := [.command 0x000B], processor := ⟨0, 0, 0, true, true, false⟩ }, rfl,
      by decide, by decide, rfl, rfl, rfl⟩⟩
/-- Listed addresses at both ends of the space, an unlisted one after a listed one, and a host write. -/
theorem witness_BusAnswersTheImageElseADraw :
    (∃ s : State, (∀ ab ∈ [(0x0000#16, 1#8), (0xFFFF#16, 2#8), (0x0000#16, 1#8)],
        Memory.lookup s.memory ab.1.toNat = some ab.2) ∧
      Answers s [(0x0000, 1), (0xFFFF, 2), (0x0000, 1)] ∧ Memory.lookup s.memory (0x8000#16).toNat = none) ∧
    (∃ s : State, s.inputs = [.writeMem 0xFFFF 7] ∧ Memory.wf s.memory = true) :=
  ⟨⟨bench [(0, 1), (0xFFFF, 2)] 0 0 0,
      fun ab h => by
        simp only [List.mem_cons, List.not_mem_nil, or_false] at h
        rcases h with rfl | rfl | rfl <;> decide,
      ⟨by decide, by decide, by decide, trivial⟩, by decide⟩,
    ⟨{ bench [(0, 1)] 0 0 0 with inputs := [.writeMem 0xFFFF 7] }, rfl, by decide⟩⟩
theorem witness_OnlyHostWritesMemory :
    ∃ s t : State, step s = .next t ∧ t.memory ≠ s.memory :=
  ⟨{ bench [(0, 1)] 0 0 0 with inputs := [.writeMem 0 7] }, _, rfl, by decide⟩
theorem witness_HistoryIsNeverRewritten :
    (∃ t, step ((bench [(0x1001, 0x80)] 0x1002 0 0).withFetchWord 16 0x0006) = .next t) ∧
    (∃ t, step { bench [] 0 0 0 with inputs := [.writeX 7] } = .next t) ∧
    (∃ t, step { bench [] 0 0 0 with inputs := [.motion .p1] } = .next t) := ⟨⟨_, rfl⟩, ⟨_, rfl⟩, ⟨_, rfl⟩⟩
theorem witness_HostWritesProcessorState :
    ∃ s1 s2 s3 : State, s1.inputs = [.writePC 0xFFFF] ∧ s2.inputs = [.writeX 0xFF] ∧ s3.inputs = [.writeY 0xFF] :=
  ⟨{ bench [] 0 0 0 with inputs := [.writePC 0xFFFF] }, { bench [] 0 0 0 with inputs := [.writeX 0xFF] },
    { bench [] 0 0 0 with inputs := [.writeY 0xFF] }, rfl, rfl, rfl⟩
theorem witness_EveryStepKeepsTheInvariant :
    ∃ s t : State, s.Inv ∧ step s = .next t :=
  ⟨(bench [(0x1001, 0x80)] 0x1002 0 0).withFetchWord 16 0xB000, _, bench_inv [(0x1001, 0x80)] (by decide) 0x1002 0 0, rfl⟩
theorem witness_ResetStateHasTheInvariant : benchParams.paramsWf = true := by decide
theorem witness_CounterInvariantKept :
    (∀ o, ((bench [] 0 0 0).cnt o).Inv) ∧ (∃ t, exec (.setvP0 39) (bench [] 0 0 0) = .next t) ∧
      (ObjParams.mk 255 39).wf = true :=
  ⟨bench_counter_inv [] 0 0 0, ⟨_, rfl⟩, by decide⟩

end Sys2Proof.Tests
end

/-! What a step on a command word does, once the host's duty of 70_reset_and_hazards.md R224 item 3 is told apart from
the decoding. -/

namespace Sys2Proof.Machine

/-- The X column of 10_state.md R30, as a list. -/
theorem readsX_iff_mem (m : AddrMode) :
    readsX m = true ↔ m ∈ [AddrMode.absoluteX, .zeroPageX, .indexedIndirect] := by
  cases m <;> decide

/-- The Y column of 10_state.md R30, as a list. -/
theorem readsY_iff_mem (m : AddrMode) :
    readsY m = true ↔ m ∈ [AddrMode.absoluteY, .zeroPageY, .indirectIndexed] := by
  cases m <;> decide

theorem processorReady_of_resolveMode_none (p : Processor) {i : Instr} (hm : i.resolveMode = none) :
    processorReady p i = true := by
  simp [processorReady, hm]

/-- For a RESOLVE the duty is PC, and each index register its mode reads (D25). -/
theorem processorReady_iff_of_resolveMode_some (p : Processor) {i : Instr} {m : AddrMode}
    (hm : i.resolveMode = some m) :
    processorReady p i = true ↔
      p.pcWritten = true ∧ (readsX m = true → p.xWritten = true) ∧ (readsY m = true → p.yWritten = true) := by
  simp [processorReady, hm, and_assoc, imp_iff_not_or]

/-- A command the host is ready for runs, in the state in which its word has been taken (60_exceptions.md R195). -/
theorem step_of_decode_ok {s : State} {w : Word} {rest : List HostInput} {i : Instr}
    (hin : s.inputs = .command w :: rest) (hc : s.cause = 0) (hd : decode w = .ok i)
    (hp : processorReady s.processor i = true) :
    step s = exec i (s.afterInput (.command w) rest) := by
  rw [step_command hin hc, hd]
  exact if_pos hp

/-- Settles O43: the written registers are what `processorReady` asks for, and a ready command runs. -/
theorem stepRunsTheDecodedCommand : Obligations.StepRunsTheDecodedCommand := by
  intro s w rest i hin hc hd hwritten
  refine step_of_decode_ok hin hc hd ?_
  cases hm : i.resolveMode with
  | none => exact processorReady_of_resolveMode_none _ hm
  | some m =>
    obtain ⟨hpc, hx, hy⟩ := hwritten m hm
    rw [processorReady_iff_of_resolveMode_some _ hm, readsX_iff_mem, readsY_iff_mem]
    exact ⟨hpc, hx, hy⟩

end Sys2Proof.Machine

/-! What a command does to one counter, to the fault registers and to the host's side, said once over `exec`. -/

namespace Sys2Proof.Machine

/-- A command that is no operation on `o` leaves the counter of `o` (41_position_counter.md R159). -/
theorem exec_counter_cnt_ne {i : Instr} {s t : State} {o o' : Obj} (hi : IsCounterCommand i o') (ho : o ≠ o')
    (h : exec i s = .next t) : t.cnt o = s.cnt o := by
  rcases exec_counter s o' hi with ⟨c, r, hx⟩ | ⟨v, -, -, hx⟩ <;> cases hx.symm.trans h
  · rw [ret_cnt, setCnt_cnt_ne s c ho]
  · rfl

/-- Everything a command can do to the counter of `o` (41_position_counter.md R152 to R157): only an operation on `o` changes it,
and then by its own effect; a CLOCK also answers TRANS. -/
theorem exec_cnt_cases {i : Instr} {s t : State} (h : exec i s = .next t) (o : Obj) :
    t.cnt o = s.cnt o ∨
    (i = .resetOn o ∧ t.cnt o = (s.cnt o).reset) ∨
    (∃ v, i = .setvOn o v ∧ v.toNat < (s.cnt o).period.toNat ∧ t.cnt o = (s.cnt o).setValue v) ∨
    (i = .clockOn o ∧ t.cnt o = (s.cnt o).clock ∧
      t.lastResult = some (.ok (.transition (s.cnt o).clockTrans))) ∨
    (∃ hm, i = .hmstartOn o hm ∧ t.cnt o = (s.cnt o).startHmove hm) ∨
    (i = .hmapplyOn o ∧ t.cnt o = (s.cnt o).applyHmove) := by
  rcases instr_cases i with ⟨m, rfl⟩ | ⟨m, rfl⟩ | ⟨o', hi⟩
  · obtain ⟨_, _, _, hx⟩ := exec_resolve s m
    cases hx.symm.trans h
    exact .inl rfl
  · cases (exec_nbytesOf s m).symm.trans h
    exact .inl rfl
  by_cases ho : o = o'
  case neg => exact .inl (exec_counter_cnt_ne hi ho h)
  subst ho
  rcases hi with rfl | rfl | ⟨v, rfl⟩ | rfl | ⟨hm, rfl⟩ | rfl
  · cases (exec_resetOn s o).symm.trans h
    exact .inr (.inl ⟨rfl, resetCommand_cnt_same s o⟩)
  · cases (exec_valueOn s o).symm.trans h
    exact .inl rfl
  · cases (exec_setvOn s o v).symm.trans h
    by_cases hv : (s.cnt o).period.toNat ≤ v.toNat
    · rw [setValueCommand_of_ge s o hv]
      exact .inl rfl
    · rw [setValueCommand_of_lt s o (not_le.1 hv)]
      exact .inr (.inr (.inl ⟨v, rfl, not_le.1 hv, setCnt_cnt_same s o _⟩))
  · cases (exec_clockOn s o).symm.trans h
    exact .inr (.inr (.inr (.inl ⟨rfl, clockCommand_cnt_same s o, ret_lastResult _ _⟩)))
  · cases (exec_hmstartOn s o hm).symm.trans h
    exact .inr (.inr (.inr (.inr (.inl ⟨hm, rfl, startHmoveCommand_cnt_same s o hm⟩))))
  · cases (exec_hmapplyOn s o).symm.trans h
    exact .inr (.inr (.inr (.inr (.inr ⟨rfl, applyHmoveCommand_cnt_same s o⟩))))

/-- Settles O28: none of the three things a command can do touches the host's side. -/
theorem noCommandWritesProcessorOrMemory : Obligations.NoCommandWritesProcessorOrMemory := by
  intro i s t h
  rcases exec_cases s i with ⟨_, _, hx⟩ | ⟨_, _, _, -, hx⟩ | ⟨_, _, -, -, hx⟩ <;>
    cases hx.symm.trans h <;> exact ⟨rfl, rfl, rfl⟩

/-- A command leaves FAULT and FAULT_INFO, or it enters CounterDomain with its own word (60_exceptions.md R196, log 18). -/
theorem exec_fault_cases {i : Instr} {s t : State} (h : exec i s = .next t) :
    (t.fault = s.fault ∧ t.faultInfo = s.faultInfo) ∨ t = enterFault .counterDomain (encode i) s := by
  rcases exec_cases s i with ⟨_, _, hx⟩ | ⟨_, _, _, -, hx⟩ | ⟨_, _, -, -, hx⟩ <;> cases hx.symm.trans h
  · exact .inl ⟨rfl, rfl⟩
  · exact .inl ⟨rfl, rfl⟩
  · exact .inr rfl

/-! NEW and APPLY_HMOVE in numbers. -/

theorem Counter.new_internal (p : ObjParams) : (Counter.new p).internalValue.toNat = p.resetValue.toNat * 4 := by
  have := p.resetValue.isLt
  simp only [Counter.new, BitVec.toNat_ofNat]
  omega

theorem Counter.applyHmove_of_count_zero {c : Counter} (h : c.clocksToAdd = 0) : c.applyHmove.clocksToAdd = 0 :=
  if_pos h

theorem Counter.applyHmove_count_succ {c : Counter} (h : c.clocksToAdd ≠ 0) :
    c.applyHmove.clocksToAdd.toNat + 1 = c.clocksToAdd.toNat := by
  have h' : c.clocksToAdd.toNat ≠ 0 := fun e => h (BitVec.eq_of_toNat_eq e)
  rw [Counter.applyHmove_count]
  omega

/-! Who writes which field of a counter (10_state.md R37 to R42). -/

/-- Settles O60: each effect of `exec_cnt_cases` keeps a legal counter legal. -/
theorem counterInvariantKept : Obligations.CounterInvariantKept := by
  refine ⟨fun i s t hs h o => ?_, fun p hp => Counter.new_inv hp⟩
  have ho := hs o
  rcases exec_cnt_cases h o with
    e | ⟨-, e⟩ | ⟨v, -, hv, e⟩ | ⟨-, e, -⟩ | ⟨hm, -, e⟩ | ⟨-, e⟩ <;> rw [e]
  · exact ho
  · exact Counter.reset_inv ho
  · exact Counter.setValue_inv ho hv
  · exact Counter.clock_inv ho
  · exact Counter.startHmove_inv ho hm
  · exact Counter.applyHmove_inv ho

/-- Settles O35: the two motion commands have effects that leave internal_value. -/
theorem internalValueWrittenByThreeCommands : Obligations.InternalValueWrittenByThreeCommands := by
  refine ⟨fun i s t o h hne => ?_, fun ps s o => ?_⟩
  · rcases exec_cnt_cases h o with
      e | ⟨hi, -⟩ | ⟨v, hi, -, -⟩ | ⟨hi, -, -⟩ | ⟨hm, -, e⟩ | ⟨-, e⟩
    · exact absurd (congrArg Counter.internalValue e) hne
    · exact .inl hi
    · exact .inr (.inl ⟨v, hi⟩)
    · exact .inr (.inr hi)
    · exact absurd (congrArg Counter.internalValue e) hne
    · exact absurd (congrArg Counter.internalValue e) hne
  · rw [blockReset_cnt, Counter.new_internal]

/-- Settles O36: CLOCK's new last_value is the ticked position, and it differs from the old one exactly on TRANS = 1. -/
theorem lastValueWrittenByClockOnly : Obligations.LastValueWrittenByClockOnly := by
  refine ⟨fun i s t o h hne => ?_, fun ps s o => by rw [blockReset_cnt]; rfl⟩
  rcases exec_cnt_cases h o with
    e | ⟨-, e⟩ | ⟨v, -, -, e⟩ | ⟨hi, e, hr⟩ | ⟨hm, -, e⟩ | ⟨-, e⟩
  case inr.inr.inr.inl =>
    have htrans : (s.cnt o).clockTrans = true := by
      rwa [Counter.clockTrans_iff, ← Counter.clock_lastValue, ← e]
    exact ⟨hi, htrans ▸ hr⟩
  all_goals exact absurd (congrArg Counter.lastValue e) hne

/-- Settles O37: START_HMOVE loads the pattern; APPLY_HMOVE changes only a count that is not 0, by one. -/
theorem clocksToAddWrittenByMotionCommands : Obligations.ClocksToAddWrittenByMotionCommands := by
  refine ⟨fun i s t o h hne => ?_, fun o hm s => ⟨_, exec_hmstartOn s o hm, ?_⟩,
    fun o s hc => ⟨_, exec_hmapplyOn s o, ?_⟩, fun ps s o => by rw [blockReset_cnt]; rfl⟩
  · rcases exec_cnt_cases h o with
      e | ⟨-, e⟩ | ⟨v, -, -, e⟩ | ⟨-, e, -⟩ | ⟨hm, hi, -⟩ | ⟨hi, e⟩
    case inr.inr.inr.inr.inl => exact .inl ⟨hm, hi⟩
    case inr.inr.inr.inr.inr =>
      rw [e] at hne ⊢
      exact .inr ⟨hi, Counter.applyHmove_count_succ fun hz =>
        hne ((Counter.applyHmove_of_count_zero hz).trans hz.symm)⟩
    all_goals exact absurd (congrArg Counter.clocksToAdd e) hne
  · rw [startHmoveCommand_cnt_same]
    exact motionCount_toNat hm
  · rw [applyHmoveCommand_cnt_same]
    exact Counter.applyHmove_count_succ hc

/-- Settles O38: no effect of `exec_cnt_cases` has another period or reset_value. -/
theorem constantsOfAnInstanceNeverChange : Obligations.ConstantsOfAnInstanceNeverChange := by
  intro i s t o h
  rcases exec_cnt_cases h o with
    e | ⟨-, e⟩ | ⟨v, -, -, e⟩ | ⟨-, e, -⟩ | ⟨hm, -, e⟩ | ⟨-, e⟩ <;> rw [e] <;> exact ⟨rfl, rfl⟩

end Sys2Proof.Machine

/-! The invariant of the machine, at reset and over whole steps. -/

namespace Sys2Proof.Machine

/-- FAULT's reserved bits are 0 whatever fault is entered (10_state.md R44). -/
theorem causeCode_reserved_bits (c : Cause) : ((causeCode c).zeroExtend 8).extractLsb' 2 6 = 0#6 := by
  cases c <;> rfl

theorem newCounters_inv {ps : PerObj ObjParams} (h : ps.paramsWf = true) (o : Obj) :
    (perObjGet (newCounters ps) o).Inv := by
  rw [perObjGet_newCounters]
  exact Counter.new_inv ((paramsWf_iff ps).1 h o)

theorem resetWith_inv {ps : PerObj ObjParams} (h : ps.paramsWf = true) : (State.resetWith ps).Inv :=
  ⟨newCounters_inv h, BitVec.extractLsb'_zero, rfl⟩

theorem enterFault_inv {s : State} (h : s.Inv) (c : Cause) (w : Word) : (enterFault c w s).Inv := by
  obtain ⟨hcnt, -, hmem⟩ := h
  exact ⟨hcnt, causeCode_reserved_bits c, hmem⟩

theorem afterInput_inv {s : State} (h : s.Inv) (i : HostInput) (rest : List HostInput) : (s.afterInput i rest).Inv := h

theorem followMotion_inv {s : State} (h : s.Inv) (hp : HmoveProtocol) (o : Obj) : (followMotion hp o s).Inv := h

theorem blockReset_inv {s : State} (h : s.Inv) {ps : PerObj ObjParams} (hps : ps.paramsWf = true) :
    (blockReset ps s).Inv := by
  obtain ⟨-, -, hmem⟩ := h
  exact ⟨newCounters_inv hps, BitVec.extractLsb'_zero, hmem⟩

theorem hostWriteMem_inv {s : State} (h : s.Inv) (a : Word) (b : Byte) : (hostWriteMem a b s).Inv := by
  obtain ⟨hcnt, hfault, hmem⟩ := h
  exact ⟨hcnt, hfault, Memory.wf_write s.memory a b hmem⟩

/-- Every command keeps the invariant: the counters by O60, FAULT by fault entry, memory by O28. -/
theorem exec_inv {i : Instr} {s t : State} (hs : s.Inv) (h : exec i s = .next t) : t.Inv := by
  obtain ⟨hcnt, hfault, hmem⟩ := hs
  rcases exec_fault_cases h with ⟨hf, -⟩ | rfl
  · obtain ⟨-, hm, -⟩ := noCommandWritesProcessorOrMemory i s t h
    exact ⟨counterInvariantKept.1 i s t hcnt h, hf ▸ hfault, hm ▸ hmem⟩
  · exact enterFault_inv ⟨hcnt, hfault, hmem⟩ _ _

/-- Settles O58: each of the eight things a step can do keeps the invariant. -/
theorem everyStepKeepsTheInvariant : Obligations.EveryStepKeepsTheInvariant := by
  intro s t hs h
  obtain ⟨i, rest, -, hcase⟩ := step_cases h
  have hs' := afterInput_inv hs i rest
  rcases hcase with ⟨w, c, -, -, -, rfl⟩ | ⟨w, j, -, -, -, -, hx⟩ | ⟨o, -, -, rfl⟩ | ⟨ps, -, hps, rfl⟩ |
    ⟨v, -, rfl⟩ | ⟨v, -, rfl⟩ | ⟨v, -, rfl⟩ | ⟨a, b, -, rfl⟩
  · exact enterFault_inv hs' c w
  · exact exec_inv hs' hx
  · exact followMotion_inv (exec_inv hs' (exec_hmapplyOn _ o)) _ o
  · exact blockReset_inv hs' hps
  · exact hs'
  · exact hs'
  · exact hs'
  · exact hostWriteMem_inv hs' a b

/-- Settles O59: NEW makes legal counters, and the configuration is in NEW's domain. -/
theorem resetStateHasTheInvariant : Obligations.ResetStateHasTheInvariant :=
  ⟨resetWith_inv Config.params_wf, fun _ hps => resetWith_inv hps⟩

/-- Settles O53: NEW on the configuration's parameters, and FAULT cleared. -/
theorem resetStateIsTheTableOfR48 : Obligations.ResetStateIsTheTableOfR48 := by
  refine ⟨fun o => ?_, rfl, rfl, rfl⟩
  have hcnt : State.reset.cnt o = Counter.new (Config.objParams o) := by
    rw [State.reset, resetWith_cnt, Config.params_get]
  rw [hcnt]
  exact ⟨rfl, rfl, Counter.new_internal _, rfl, rfl, (ObjParams.wf_iff _).1 (Config.objParams_wf o)⟩

/-- A step takes the next input, in the state in which it has left the queue (00_scope.md R11). -/
theorem step_of_inputs {s : State} {i : HostInput} {rest : List HostInput} (hi : s.inputs = i :: rest) :
    step s = takeInput Config.hmoveProtocol i (s.afterInput i rest) := by
  simp only [step, hostStep, hi]

/-- Settles O57: taking the input is the host's write. -/
theorem hostWritesProcessorState : Obligations.HostWritesProcessorState := by
  refine fun s rest => ⟨fun v hi => ?_, fun v hi => ?_, fun v hi => ?_⟩ <;> rw [step_of_inputs hi] <;> rfl

end Sys2Proof.Machine

/-! What the decoder accepts, the encoder writes again (30_encoding.md R93). -/

namespace Sys2Proof

/-- A Format A word is its fields (30_encoding.md R82). -/
theorem formatA_fields {w : Word} (hu : fieldU w = 0#1) (hr : fieldReservedA w = 0#10) :
    formatA (fieldQ w) (fieldMode w) = w := by
  rw [formatA, ← hu, ← hr]
  simp only [fieldU, fieldQ, fieldReservedA, fieldMode, BitVec.extractLsb'_append_extractLsb'_eq_extractLsb',
    BitVec.extractLsb'_eq_self]

/-- A Format B word is its fields (30_encoding.md R83). -/
theorem formatB_fields {w : Word} (hu : fieldU w = 1#1) (hr : fieldReservedB w = 0#1) :
    formatB (fieldOp w) (fieldObj w) (fieldData w) = w := by
  rw [formatB, ← hu, ← hr]
  simp only [fieldU, fieldOp, fieldReservedB, fieldObj, fieldData,
    BitVec.extractLsb'_append_extractLsb'_eq_extractLsb', BitVec.extractLsb'_eq_self]

/-- MODE is the code of the mode it names (30_encoding.md R84). -/
theorem modeCode_of_modeOfCode {n : BitVec 4} {m : AddrMode} (h : modeOfCode n = some m) : modeCode m = n := by
  revert n
  cases m <;> decide

/-- OBJ is the code of the object it names (30_encoding.md R86). -/
theorem objCode_of_objOfCode {n : BitVec 3} {o : Obj} (h : objOfCode n = some o) : objCode o = n := by
  revert n
  cases o <;> decide

theorem encode_resolveOf (m : AddrMode) : encode (.resolveOf m) = formatA 0#1 (modeCode m) := by cases m <;> rfl
theorem encode_nbytesOf (m : AddrMode) : encode (.nbytesOf m) = formatA 1#1 (modeCode m) := by cases m <;> rfl
theorem encode_resetOn (o : Obj) : encode (.resetOn o) = formatB 0#3 (objCode o) 0x00#8 := by cases o <;> rfl
theorem encode_valueOn (o : Obj) : encode (.valueOn o) = formatB 1#3 (objCode o) 0x00#8 := by cases o <;> rfl
theorem encode_setvOn (o : Obj) (v : Byte) : encode (.setvOn o v) = formatB 2#3 (objCode o) v := by cases o <;> rfl
theorem encode_clockOn (o : Obj) : encode (.clockOn o) = formatB 3#3 (objCode o) 0x00#8 := by cases o <;> rfl
theorem encode_hmstartOn (o : Obj) (hm : Byte) : encode (.hmstartOn o hm) = formatB 4#3 (objCode o) hm := by
  cases o <;> rfl
theorem encode_hmapplyOn (o : Obj) : encode (.hmapplyOn o) = formatB 5#3 (objCode o) 0x00#8 := by cases o <;> rfl

/-- A command without an operand has DATA = 0 (30_encoding.md R87). -/
theorem noData_ok {i j : Instr} {d : Byte} (h : noData i d = .ok j) : j = i ∧ d = 0x00#8 := by
  rw [noData] at h
  split at h
  · exact ⟨(Except.ok.inj h).symm, ‹_›⟩
  · cases h

theorem encode_of_decodeOp {op : BitVec 3} {o : Obj} {d : Byte} {i : Instr} (h : decodeOp op o d = .ok i) :
    encode i = formatB op (objCode o) d := by
  simp only [decodeOp] at h
  split at h
  · obtain ⟨rfl, rfl⟩ := noData_ok h
    exact encode_resetOn o
  · obtain ⟨rfl, rfl⟩ := noData_ok h
    exact encode_valueOn o
  · cases h
    exact encode_setvOn o d
  · obtain ⟨rfl, rfl⟩ := noData_ok h
    exact encode_clockOn o
  · cases h
    exact encode_hmstartOn o d
  · obtain ⟨rfl, rfl⟩ := noData_ok h
    exact encode_hmapplyOn o
  · cases h

theorem encode_of_decodeA {w : Word} {i : Instr} (hu : fieldU w = 0#1) (h : decodeA w = .ok i) : encode i = w := by
  simp only [decodeA] at h
  split at h
  case isFalse => cases h
  next hr =>
    split at h
    next m hm =>
      have hq : encode i = formatA (fieldQ w) (modeCode m) := by
        rcases BitVec.eq_zero_or_eq_one (fieldQ w) with hq | hq <;> rw [hq] at h ⊢ <;> cases h
        · exact encode_resolveOf m
        · exact encode_nbytesOf m
      rw [hq, modeCode_of_modeOfCode hm, formatA_fields hu hr]
    next => cases h

theorem encode_of_decodeB {w : Word} {i : Instr} (hu : fieldU w = 1#1) (h : decodeB w = .ok i) : encode i = w := by
  simp only [decodeB] at h
  split at h
  case isFalse => cases h
  next hr =>
    split at h
    next o ho => rw [encode_of_decodeOp h, objCode_of_objOfCode ho, formatB_fields hu hr]
    next => cases h

/-- The word of the command a word decodes to is that word. -/
theorem encode_of_decode {w : Word} {i : Instr} (h : decode w = .ok i) : encode i = w := by
  rw [decode] at h
  split at h
  next hu => exact encode_of_decodeA hu h
  next hu => exact encode_of_decodeB ((BitVec.eq_zero_or_eq_one _).resolve_left hu) h

end Sys2Proof

namespace Sys2Proof.Machine

/-- Settles O49: a step that faults is a command word's own fault entry, RST clears both, and nothing else touches them. -/
theorem faultWrittenOnlyByFaultEntry : Obligations.FaultWrittenOnlyByFaultEntry := by
  intro s t h hne
  obtain ⟨i, rest, hin, hcase⟩ := step_cases h
  have entered (w : Word) (c : Cause) (hi : i = .command w) (ht : t = enterFault c w (s.afterInput i rest)) :
      ∃ w' rest' c', s.inputs = .command w' :: rest' ∧ t.lastResult = some (.err c') ∧ t.faultInfo = w' ∧
        t.fault = (causeCode c').zeroExtend 8 ∧ t.cause ≠ 0 := by
    subst hi ht
    refine ⟨w, rest, c, hin, enterFault_lastResult _ c w, rfl, rfl, ?_⟩
    rw [enterFault_cause]
    exact causeCode_ne_zero c
  have unchanged {P : Prop} (hf : t.fault = s.fault) (hi : t.faultInfo = s.faultInfo) : P :=
    (hne.elim (· hf) (· hi)).elim
  rcases hcase with ⟨w, c, hi, -, -, ht⟩ | ⟨w, j, hi, -, hd, -, hx⟩ | ⟨o, -, -, rfl⟩ | ⟨ps, rfl, -, rfl⟩ |
    ⟨v, -, rfl⟩ | ⟨v, -, rfl⟩ | ⟨v, -, rfl⟩ | ⟨a, b, -, rfl⟩
  · exact .inr (entered w c hi ht)
  · rcases exec_fault_cases hx with ⟨hf, hinfo⟩ | ht
    · exact unchanged hf hinfo
    · exact .inr (entered w .counterDomain hi (encode_of_decode hd ▸ ht))
  · exact unchanged rfl rfl
  · exact .inl ⟨ps, rest, hin, rfl, rfl⟩
  · exact unchanged rfl rfl
  · exact unchanged rfl rfl
  · exact unchanged rfl rfl
  · exact unchanged rfl rfl

end Sys2Proof.Machine

/-! A command answers the same, whatever the host's registers it does not read hold (10_state.md R30, R31). -/

namespace Sys2Proof.Machine

/-- `s` with the host's registers `p`, and nothing else different: what `State.withX`, `State.withY` and `State.withPC` are
cases of. -/
def State.withProcessor (s : State) (p : Processor) : State := { s with processor := p }

/-- `p` holds what `s` does in every register that RESOLVE of `m` reads (10_state.md R30): PC for all modes but the two of
40_address_resolver.md R117 and R118, X and Y by their columns. -/
structure AgreesOn (m : AddrMode) (s : State) (p : Processor) : Prop where
  pc : m ≠ .implied → m ≠ .accumulator → p.pc = s.processor.pc
  x : readsX m = true → p.x = s.processor.x
  y : readsY m = true → p.y = s.processor.y

/-- RESOLVE looks at the registers its mode reads, and at no other: with those equal, both runs compute the same. -/
theorem exec_resolveOf_withProcessor {m : AddrMode} {s t : State} {p : Processor} (hp : AgreesOn m s p)
    (h : exec (.resolveOf m) s = .next t) : exec (.resolveOf m) (s.withProcessor p) = .next (t.withProcessor p) := by
  obtain ⟨hpc, hx, hy⟩ := hp
  obtain ⟨pc, x, y, _, _, _⟩ := p
  cases m <;> cases h
  case implied | accumulator => rfl
  case immediate | absolute | zeroPage | indirect | relative =>
    cases hpc nofun nofun
    rfl
  case absoluteX | zeroPageX | indexedIndirect =>
    cases hpc nofun nofun
    cases hx rfl
    rfl
  case absoluteY | zeroPageY | indirectIndexed =>
    cases hpc nofun nofun
    cases hy rfl
    rfl

/-- A counter command reads its own counter and no register of the host (41_position_counter.md R150). -/
theorem exec_counter_withProcessor {i : Instr} {o : Obj} (hi : IsCounterCommand i o) {s t : State} (p : Processor)
    (h : exec i s = .next t) : exec i (s.withProcessor p) = .next (t.withProcessor p) := by
  rcases hi with rfl | rfl | ⟨v, rfl⟩ | rfl | ⟨hm, rfl⟩ | rfl
  · cases (exec_resetOn s o).symm.trans h
    exact exec_resetOn _ o
  · cases (exec_valueOn s o).symm.trans h
    exact exec_valueOn _ o
  · cases (exec_setvOn s o v).symm.trans h
    rw [exec_setvOn]
    by_cases hv : (s.cnt o).period.toNat ≤ v.toNat
    · rw [setValueCommand_of_ge s o hv, setValueCommand_of_ge (s.withProcessor p) o hv]
      rfl
    · rw [setValueCommand_of_lt s o (not_le.1 hv), setValueCommand_of_lt (s.withProcessor p) o (not_le.1 hv)]
      rfl
  · cases (exec_clockOn s o).symm.trans h
    exact exec_clockOn _ o
  · cases (exec_hmstartOn s o hm).symm.trans h
    exact exec_hmstartOn _ o hm
  · cases (exec_hmapplyOn s o).symm.trans h
    exact exec_hmapplyOn _ o

/-- A command does the same under any host registers that agree with `s` where it reads them. -/
theorem exec_withProcessor {i : Instr} {s t : State} {p : Processor} (hp : ∀ m, i = .resolveOf m → AgreesOn m s p)
    (h : exec i s = .next t) : exec i (s.withProcessor p) = .next (t.withProcessor p) := by
  rcases instr_cases i with ⟨m, rfl⟩ | ⟨m, rfl⟩ | ⟨o, hi⟩
  · exact exec_resolveOf_withProcessor (hp m rfl) h
  · cases (exec_nbytesOf s m).symm.trans h
    exact exec_nbytesOf _ m
  · exact exec_counter_withProcessor hi p h

theorem resolveMode_resolveOf (m : AddrMode) : (Instr.resolveOf m).resolveMode = some m := by
  cases m <;> rfl

/-- Settles O32: the run with another X, Y or PC is `exec_withProcessor`, since no command writes those registers (O28). -/
theorem unreadIndexRegistersDoNotMatter : Obligations.UnreadIndexRegistersDoNotMatter := by
  intro i s t h
  obtain ⟨hproc, -, -⟩ := noCommandWritesProcessorOrMemory i s t h
  refine ⟨fun hi v => ?_, fun hi v => ?_, fun hi v => ?_⟩
  · have hp (m : AddrMode) (hm : i = .resolveOf m) : AgreesOn m s { s.processor with x := v } :=
      ⟨fun _ _ => rfl,
        fun hx => absurd (hm ▸ List.mem_map_of_mem (f := Instr.resolveOf) ((readsX_iff_mem m).1 hx)) hi, fun _ => rfl⟩
    rw [State.withX, State.withX, hproc]
    exact exec_withProcessor hp h
  · have hp (m : AddrMode) (hm : i = .resolveOf m) : AgreesOn m s { s.processor with y := v } :=
      ⟨fun _ _ => rfl, fun _ => rfl,
        fun hy => absurd (hm ▸ List.mem_map_of_mem (f := Instr.resolveOf) ((readsY_iff_mem m).1 hy)) hi⟩
    rw [State.withY, State.withY, hproc]
    exact exec_withProcessor hp h
  · have hp (m : AddrMode) (hm : i = .resolveOf m) : AgreesOn m s { s.processor with pc := v } := by
      refine ⟨fun himp hacc => ?_, fun _ => rfl, fun _ => rfl⟩
      have hmode : i.resolveMode = some m := hm ▸ resolveMode_resolveOf m
      rcases hi with hnone | rfl | rfl
      · cases hnone.symm.trans hmode
      · exact absurd (Option.some.inj hmode).symm himp
      · exact absurd (Option.some.inj hmode).symm hacc
    rw [State.withPC, State.withPC, hproc]
    exact exec_withProcessor hp h

end Sys2Proof.Machine

/-! The memory behind the bus (20_memory.md): page 0, what the bus answers, who writes the image, and what a step records. -/

namespace Sys2Proof.Machine

/-! Page 0 (R68). -/

theorem zext16_lt_page (b : Byte) : (zext16 b).toNat < 0x100 := by
  rw [zext16_eq, toNat_word_append]
  simpa using b.isLt

/-- The one operand byte, whatever the bus answers for it. -/
theorem readOperand8_reads {m : AddrMode} (hm : nBytes m = 2) (s : State) :
    ∃ b, readOperand8 m s = (b, s.afterReads [(s.pc - 1, b)]) :=
  ⟨_, readOperand8_of_answers hm ⟨rfl, trivial⟩⟩

/-- A pointer in page 0 has both its bytes there (R67). -/
theorem readPointer_zext16_reads (p : Byte) (s : State) : ∃ tlo thi,
    readPointer (zext16 p) s = (thi ++ tlo, s.afterReads [(zext16 p, tlo), (zext16 (p + 1), thi)]) := by
  rw [zext16_eq, zext16_eq]
  exact ⟨_, _, readPointer_of_answers ⟨rfl, rfl, trivial⟩⟩

/-- Both zero-page pointer modes read their operand byte and then the pointer `p` in page 0: the operand plus X, or the operand
itself (40_address_resolver.md R125, R126). -/
theorem exec_zeroPagePointer_reads {i : Instr} (hi : i = .resolveIzx ∨ i = .resolveIzy) (s : State) :
    ∃ (b tlo thi p : Byte) (r : Result),
      exec i s = .next (s.observed [(s.pc - 1, b), (zext16 p, tlo), (zext16 (p + 1), thi)] r) := by
  rcases hi with rfl | rfl
  · obtain ⟨b, hb⟩ := readOperand8_reads (m := .indexedIndirect) rfl s
    obtain ⟨tlo, thi, hp⟩ := readPointer_zext16_reads (add8 b s.x) (s.afterReads [(s.pc - 1, b)])
    exact ⟨b, tlo, thi, add8 b s.x, _, by
      simp only [exec, execResolveIzx, hb, hp, afterReads_afterReads, returnAddress_afterReads]; rfl⟩
  · obtain ⟨b, hb⟩ := readOperand8_reads (m := .indirectIndexed) rfl s
    obtain ⟨tlo, thi, hp⟩ := readPointer_zext16_reads b (s.afterReads [(s.pc - 1, b)])
    exact ⟨b, tlo, thi, b, _, by
      simp only [exec, execResolveIzy, hb, hp, afterReads_afterReads, returnAddress_afterReads]; rfl⟩

/-- Settles O31: every address in question is a byte, zero-extended. -/
theorem zeroPageModesStayInPageZero : Obligations.ZeroPageModesStayInPageZero := by
  refine ⟨fun i hi s => ?_, fun i hi s => ?_, by decide⟩
  · simp only [List.mem_cons, List.not_mem_nil, or_false] at hi
    rcases hi with rfl | rfl | rfl <;> exact ⟨_, _, _, rfl, ret_lastResult _ _, zext16_lt_page _⟩
  · simp only [List.mem_cons, List.not_mem_nil, or_false] at hi
    obtain ⟨b, tlo, thi, p, r, h⟩ := exec_zeroPagePointer_reads hi s
    exact ⟨b, tlo, thi, _, _, _, r, h, zext16_lt_page p, zext16_lt_page (p + 1)⟩

/-! What the bus answers (R62, log 6). -/

/-- An address the image does not list answers a draw on the events so far. -/
theorem busAnswer_of_unlisted {s : State} {a : Word} (h : Memory.lookup s.memory a.toNat = none) :
    s.busAnswer a = Config.busRead s.trace a := by
  simp [State.busAnswer, h]

/-- Reading does not change what the image lists. -/
@[simp] theorem afterReads_memory (s : State) (reads : List (Word × Byte)) : (s.afterReads reads).memory = s.memory := rfl

@[simp] theorem afterReads_trace (s : State) (reads : List (Word × Byte)) :
    (s.afterReads reads).trace = s.trace ++ reads.map (fun ab => .read ab.1 ab.2) := rfl

theorem answers_singleton (s : State) (a : Word) (b : Byte) : Answers s [(a, b)] ↔ s.busAnswer a = b := by
  simp [Answers]

theorem answers_of_listed {s : State} {reads : List (Word × Byte)}
    (h : ∀ ab ∈ reads, Memory.lookup s.memory ab.1.toNat = some ab.2) : Answers s reads := by
  induction reads generalizing s with
  | nil => trivial
  | cons ab rest ih =>
    obtain ⟨hab, hrest⟩ := List.forall_mem_cons.1 h
    exact ⟨busAnswer_of_listed hab, ih hrest⟩

/-- Each byte read is the bus's answer after the reads before it. -/
theorem Answers.busAnswer_of_mem {s : State} {reads : List (Word × Byte)} (h : Answers s reads) {a : Word} {b : Byte}
    (hab : (a, b) ∈ reads) : ∃ before, (s.afterReads before).busAnswer a = b := by
  obtain ⟨before, after, rfl⟩ := List.append_of_mem hab
  obtain ⟨-, hb, -⟩ := (answers_append s before _).1 h
  exact ⟨before, hb⟩

/-- Settles O54: the image is not changed by reads, and the host's write is `Memory.write`. -/
theorem busAnswersTheImageElseADraw : Obligations.BusAnswersTheImageElseADraw := by
  refine fun s => ⟨fun reads h => answers_of_listed h, fun reads a b b' h hab hl => ?_, fun before a b hl => ?_,
    fun a b rest hin _ => ?_⟩
  · obtain ⟨before, hb⟩ := h.busAnswer_of_mem hab
    exact hb.symm.trans (busAnswer_of_listed hl)
  · have hdraw : (s.afterReads before).busAnswer a = Config.busRead (s.afterReads before).trace a :=
      busAnswer_of_unlisted hl
    rw [answers_append, answers_singleton, hdraw, afterReads_trace, eq_comm (a := b)]
  · refine ⟨hostWriteMem a b (s.afterInput (.writeMem a b) rest), step_of_inputs hin, ?_, fun a' ha => ?_, rfl⟩
    · exact busAnswer_of_listed (Memory.lookup_write_same s.memory a.toNat b)
    · exact Memory.lookup_write_ne s.memory b ha

/-! Who writes the image (R60), and what a step records (R62, log 8). -/

/-- Settles O55: of the eight things a step can do, only the host's write has another image. -/
theorem onlyHostWritesMemory : Obligations.OnlyHostWritesMemory := by
  intro s t h hne
  obtain ⟨i, rest, hin, hcase⟩ := step_cases h
  rcases hcase with ⟨w, c, -, -, -, rfl⟩ | ⟨w, j, -, -, -, -, hx⟩ | ⟨o, -, -, rfl⟩ | ⟨ps, -, -, rfl⟩ |
    ⟨v, -, rfl⟩ | ⟨v, -, rfl⟩ | ⟨v, -, rfl⟩ | ⟨a, b, rfl, -⟩
  case inr.inr.inr.inr.inr.inr.inr => exact ⟨a, b, rest, hin⟩
  case inr.inl =>
    obtain ⟨-, hmem, -⟩ := noCommandWritesProcessorOrMemory j _ t hx
    exact absurd hmem hne
  all_goals exact absurd rfl hne

/-- A command appends its reads and one result to the history (R62; 00_scope.md R18). -/
theorem exec_trace {i : Instr} {s t : State} (h : exec i s = .next t) : ∃ (reads : List (Word × Byte)) (r : Result),
    t.trace = s.trace ++ reads.map (fun ab => .read ab.1 ab.2) ++ [.returned r] := by
  rcases exec_cases s i with ⟨reads, r, hx⟩ | ⟨o, c, r, -, hx⟩ | ⟨o, v, -, -, hx⟩ <;> cases hx.symm.trans h
  · exact ⟨reads, r, rfl⟩
  · exact ⟨[], r, by simp⟩
  · exact ⟨[], .err .counterDomain, by simp⟩

@[simp] theorem applyHmoveCommand_trace (s : State) (o : Obj) : (applyHmoveCommand o s).trace =
    s.trace ++ [.returned (.ok (.motion (stillMoving (s.cnt o).applyHmove.clocksToAdd)))] := rfl

/-- Settles O56: fault entry records its result alone, a command its reads and its result, the host's own acts nothing. -/
theorem historyIsNeverRewritten : Obligations.HistoryIsNeverRewritten := by
  intro s t h
  obtain ⟨i, rest, hin, hcase⟩ := step_cases h
  rcases hcase with ⟨w, c, rfl, -, -, rfl⟩ | ⟨w, j, rfl, -, -, -, hx⟩ | ⟨o, rfl, -, rfl⟩ | ⟨ps, rfl, -, rfl⟩ |
    ⟨v, rfl, rfl⟩ | ⟨v, rfl, rfl⟩ | ⟨v, rfl, rfl⟩ | ⟨a, b, rfl, rfl⟩
  · exact ⟨_, rest, [], [], hin, rfl, fun _ => rfl, .inl ⟨.err c, .inl ⟨w, rfl⟩, by simp⟩⟩
  · obtain ⟨reads, r, htrace⟩ := exec_trace hx
    obtain ⟨-, -, hinputs⟩ := noCommandWritesProcessorOrMemory j _ t hx
    exact ⟨_, rest, [], reads, hin, hinputs, fun _ => rfl, .inl ⟨r, .inl ⟨w, rfl⟩, htrace⟩⟩
  · exact ⟨_, rest, _, [], hin, rfl, fun hne => absurd rfl (hne o),
      .inl ⟨.ok (.motion (stillMoving (s.cnt o).applyHmove.clocksToAdd)), .inr ⟨⟨o, rfl⟩, rfl⟩, by simp⟩⟩
  all_goals exact ⟨_, rest, [], [], hin, rfl, fun _ => rfl, .inr ⟨nofun, nofun, rfl⟩⟩

end Sys2Proof.Machine

/-! The decoder on a word put together from its fields, and the two directions of the round trip (30_encoding.md R93). -/

namespace Sys2Proof

section
variable (q : BitVec 1) (m : BitVec 4)

@[simp] theorem fieldU_formatA : fieldU (formatA q m) = 0#1 := by
  rw [fieldU, formatA, BitVec.extractLsb'_append_eq_of_le (by decide), BitVec.extractLsb'_append_eq_of_le (by decide),
    BitVec.extractLsb'_append_eq_left]
@[simp] theorem fieldQ_formatA : fieldQ (formatA q m) = q := by
  rw [fieldQ, formatA, BitVec.extractLsb'_append_eq_of_le (by decide), BitVec.extractLsb'_append_eq_of_le (by decide),
    BitVec.extractLsb'_append_eq_right]
@[simp] theorem fieldReservedA_formatA : fieldReservedA (formatA q m) = 0#10 := by
  rw [fieldReservedA, formatA, BitVec.extractLsb'_append_eq_of_le (by decide), BitVec.extractLsb'_append_eq_right]
@[simp] theorem fieldMode_formatA : fieldMode (formatA q m) = m := BitVec.extractLsb'_append_eq_right

end

section
variable (op o : BitVec 3) (d : Byte)

@[simp] theorem fieldU_formatB : fieldU (formatB op o d) = 1#1 := by
  rw [fieldU, formatB, BitVec.extractLsb'_append_eq_of_le (by decide), BitVec.extractLsb'_append_eq_of_le (by decide),
    BitVec.extractLsb'_append_eq_of_le (by decide), BitVec.extractLsb'_append_eq_left]
@[simp] theorem fieldOp_formatB : fieldOp (formatB op o d) = op := by
  rw [fieldOp, formatB, BitVec.extractLsb'_append_eq_of_le (by decide), BitVec.extractLsb'_append_eq_of_le (by decide),
    BitVec.extractLsb'_append_eq_of_le (by decide), BitVec.extractLsb'_append_eq_right]
@[simp] theorem fieldReservedB_formatB : fieldReservedB (formatB op o d) = 0#1 := by
  rw [fieldReservedB, formatB, BitVec.extractLsb'_append_eq_of_le (by decide),
    BitVec.extractLsb'_append_eq_of_le (by decide), BitVec.extractLsb'_append_eq_right]
@[simp] theorem fieldObj_formatB : fieldObj (formatB op o d) = o := by
  rw [fieldObj, formatB, BitVec.extractLsb'_append_eq_of_le (by decide), BitVec.extractLsb'_append_eq_right]
@[simp] theorem fieldData_formatB : fieldData (formatB op o d) = d := BitVec.extractLsb'_append_eq_right

end

@[simp] theorem modeOfCode_modeCode (m : AddrMode) : modeOfCode (modeCode m) = some m := by cases m <;> rfl
@[simp] theorem objOfCode_objCode (o : Obj) : objOfCode (objCode o) = some o := by cases o <;> rfl

theorem decode_formatA (q : BitVec 1) (m : AddrMode) :
    decode (formatA q (modeCode m)) = .ok (if q = 0#1 then .resolveOf m else .nbytesOf m) := by
  simp [decode, decodeA]

theorem decode_formatB (op : BitVec 3) (o : Obj) (d : Byte) :
    decode (formatB op (objCode o) d) = decodeOp op o d := by
  simp [decode, decodeB]

/-- Settles O39: the word of an operation is its Format A or Format B word, and the decoder finds the fields again. -/
theorem decodeOfEncodeIsTheInstruction : Obligations.DecodeOfEncodeIsTheInstruction := by
  intro i
  rcases Machine.instr_cases i with ⟨m, rfl⟩ | ⟨m, rfl⟩ | ⟨o, hi⟩
  · simp [encode_resolveOf, decode_formatA]
  · simp [encode_nbytesOf, decode_formatA]
  · rcases hi with rfl | rfl | ⟨v, rfl⟩ | rfl | ⟨hm, rfl⟩ | rfl
    · simp [encode_resetOn, decode_formatB, decodeOp, noData]
    · simp [encode_valueOn, decode_formatB, decodeOp, noData]
    · simp [encode_setvOn, decode_formatB, decodeOp]
    · simp [encode_clockOn, decode_formatB, decodeOp, noData]
    · simp [encode_hmstartOn, decode_formatB, decodeOp]
    · simp [encode_hmapplyOn, decode_formatB, decodeOp, noData]

/-- Settles O40: a word that decodes is put together again from the fields the decoder looked at. -/
theorem encodeOfDecodeIsTheWord : Obligations.EncodeOfDecodeIsTheWord := fun _ _ => encode_of_decode

/-- Settles O42: each of the eight words is the word of its command, so it decodes to it (O39). -/
theorem sampleWordsDecodeAsWritten : Obligations.SampleWordsDecodeAsWritten :=
  have h := decodeOfEncodeIsTheInstruction
  ⟨h .resolveIzy, h .nbytesRel, h .resetM1, h .valueBl, h (.setvP0 0x28), h .clockP1, h (.hmstartBl 0x7F), h .hmapplyM0⟩

/-! The words that decode to a fault, by their fields (30_encoding.md R92). -/

theorem modeOfCode_eq_none_iff (n : BitVec 4) : modeOfCode n = none ↔ 13 ≤ n.toNat := by
  revert n
  decide

theorem objOfCode_eq_none_iff (n : BitVec 3) : objOfCode n = none ↔ 5 ≤ n.toNat := by
  revert n
  decide

theorem noData_eq_error_iff {i : Instr} {d : Byte} {c : Cause} :
    noData i d = .error c ↔ c = .illegalCommand ∧ d.toNat ≠ 0 := by
  rw [noData]
  split
  next h => simp [h]
  next h =>
    have hd : d.toNat ≠ 0 := fun h0 => h (BitVec.eq_of_toNat_eq h0)
    simp [hd, eq_comm (a := c)]

/-- The OP values of no operation, and DATA on an operation without an operand (R85, R87). -/
theorem decodeOp_eq_error_iff {op : BitVec 3} {o : Obj} {d : Byte} {c : Cause} :
    decodeOp op o d = .error c ↔
      c = .illegalCommand ∧ (6 ≤ op.toNat ∨ (op.toNat ∈ [0, 1, 3, 5] ∧ d.toNat ≠ 0)) := by
  simp only [decodeOp]
  split
  case h_7 => -- no OP of R85
    have hop : 6 ≤ op.toNat := by
      revert op
      decide
    simp [hop, eq_comm (a := c)]
  all_goals simp [noData_eq_error_iff]

theorem decodeA_eq_error_iff {w : Word} {c : Cause} :
    decodeA w = .error c ↔
      (c = .illegalCommand ∧ (fieldReservedA w).toNat ≠ 0) ∨
      (c = .invalidAddressingMode ∧ (fieldReservedA w).toNat = 0 ∧ 13 ≤ (fieldMode w).toNat) := by
  simp only [decodeA, ← modeOfCode_eq_none_iff]
  split
  next hr =>
    split
    next m hm => simp [hr, hm]
    next hm => simp [hr, hm, eq_comm (a := c)]
  next hr =>
    have hn : (fieldReservedA w).toNat ≠ 0 := fun h0 => hr (BitVec.eq_of_toNat_eq h0)
    simp [hn, eq_comm (a := c)]

theorem decodeB_eq_error_iff {w : Word} {c : Cause} :
    decodeB w = .error c ↔
      c = .illegalCommand ∧
        ((fieldReservedB w).toNat = 1 ∨ 6 ≤ (fieldOp w).toNat ∨ 5 ≤ (fieldObj w).toNat ∨
          ((fieldOp w).toNat ∈ [0, 1, 3, 5] ∧ (fieldData w).toNat ≠ 0)) := by
  simp only [decodeB, ← objOfCode_eq_none_iff]
  split
  next hr =>
    split
    next o ho => simp [hr, ho, decodeOp_eq_error_iff]
    next ho => simp [ho, eq_comm (a := c)]
  next hr => simp [(BitVec.eq_zero_or_eq_one _).resolve_left hr, eq_comm (a := c)]

/-- U picks the format whose fault it is (R81). -/
theorem decode_eq_error_iff {w : Word} {c : Cause} :
    decode w = .error c ↔
      ((fieldU w).toNat = 0 ∧ decodeA w = .error c) ∨ ((fieldU w).toNat = 1 ∧ decodeB w = .error c) := by
  rw [decode]
  rcases BitVec.eq_zero_or_eq_one (fieldU w) with hu | hu <;> simp [hu]

/-! The fields as parts of the number of the word (R81 to R83). -/

section
variable (w : Word)

theorem fieldU_toNat : (fieldU w).toNat = w.toNat / 0x8000 := by
  have := w.isLt
  rw [fieldU, BitVec.extractLsb'_toNat, Nat.shiftRight_eq_div_pow]
  omega
theorem fieldReservedA_toNat : (fieldReservedA w).toNat = w.toNat / 16 % 1024 := by
  rw [fieldReservedA, BitVec.extractLsb'_toNat, Nat.shiftRight_eq_div_pow]
theorem fieldMode_toNat : (fieldMode w).toNat = w.toNat % 16 := by
  rw [fieldMode, BitVec.extractLsb'_toNat, Nat.shiftRight_zero]
theorem fieldOp_toNat : (fieldOp w).toNat = w.toNat / 0x1000 % 8 := by
  rw [fieldOp, BitVec.extractLsb'_toNat, Nat.shiftRight_eq_div_pow]
theorem fieldReservedB_toNat : (fieldReservedB w).toNat = w.toNat / 0x800 % 2 := by
  rw [fieldReservedB, BitVec.extractLsb'_toNat, Nat.shiftRight_eq_div_pow]
theorem fieldObj_toNat : (fieldObj w).toNat = w.toNat / 0x100 % 8 := by
  rw [fieldObj, BitVec.extractLsb'_toNat, Nat.shiftRight_eq_div_pow]
theorem fieldData_toNat : (fieldData w).toNat = w.toNat % 256 := by
  rw [fieldData, BitVec.extractLsb'_toNat, Nat.shiftRight_zero]

end

/-- Settles O41: the faults by the fields, and the fields by the number of the word. -/
theorem faultingWordsAreTheReservedClasses : Obligations.FaultingWordsAreTheReservedClasses := by
  intro w
  simp [decode_eq_error_iff, decodeA_eq_error_iff, decodeB_eq_error_iff, fieldU_toNat, fieldReservedA_toNat,
    fieldMode_toNat, fieldOp_toNat, fieldReservedB_toNat, fieldObj_toNat, fieldData_toNat]

end Sys2Proof

/-! EXTRA of each command's result (30_encoding.md R84). -/

namespace Sys2Proof.Machine

/-- A mode whose row of R84 has EXTRA 0 answers EXTRA 0, whatever the bus does. -/
theorem exec_resolveOf_extra_false {m : AddrMode} (hm : m ∉ [AddrMode.absoluteX, .absoluteY, .indirectIndexed])
    (s : State) : ∃ t ea, exec (.resolveOf m) s = .next t ∧ t.lastResult = some (.ok (.resolved ea false)) := by
  cases m
  case absoluteX | absoluteY | indirectIndexed => exact absurd hm (by decide)
  all_goals exact ⟨_, _, rfl, ret_lastResult _ _⟩

/-- A counter command answers no address (41_position_counter.md R152 to R157). -/
theorem exec_counter_lastResult_ne_resolved {i : Instr} {o : Obj} (hi : IsCounterCommand i o) {s t : State}
    (h : exec i s = .next t) (ea : Word) (extra : Bool) : t.lastResult ≠ some (.ok (.resolved ea extra)) := by
  rcases hi with rfl | rfl | ⟨v, rfl⟩ | rfl | ⟨hm, rfl⟩ | rfl
  · cases (exec_resetOn s o).symm.trans h
    simp [resetCommand]
  · cases (exec_valueOn s o).symm.trans h
    simp [valueCommand]
  · cases (exec_setvOn s o v).symm.trans h
    rw [setValueCommand]
    split <;> simp
  · cases (exec_clockOn s o).symm.trans h
    simp [clockCommand]
  · cases (exec_hmstartOn s o hm).symm.trans h
    simp [startHmoveCommand]
  · cases (exec_hmapplyOn s o).symm.trans h
    simp [applyHmoveCommand]

/-- Settles O30: a RESOLVE of any other mode answers EXTRA 0, and no other command answers an address. -/
theorem extraOnlyForThreeIndexedModes : Obligations.ExtraOnlyForThreeIndexedModes := by
  intro i s t ea h hr
  rcases instr_cases i with ⟨m, rfl⟩ | ⟨m, rfl⟩ | ⟨o, hi⟩
  · have hm : m ∈ [AddrMode.absoluteX, .absoluteY, .indirectIndexed] := by
      by_contra hm
      obtain ⟨u, ea', hx, hu⟩ := exec_resolveOf_extra_false hm s
      cases hx.symm.trans h
      cases hu.symm.trans hr
    simp only [List.mem_cons, List.not_mem_nil, or_false] at hm
    rcases hm with rfl | rfl | rfl
    · exact .inl rfl
    · exact .inr (.inl rfl)
    · exact .inr (.inr rfl)
  · cases (exec_nbytes_observed s m).symm.trans h
    cases (observed_lastResult s _ _).symm.trans hr
  · exact absurd hr (exec_counter_lastResult_ne_resolved hi h ea true)

end Sys2Proof.Machine

/-! RESOLVE by mode (40_address_resolver.md R115 to R127): the reads of each mode under any answers of the bus, and the address
they come to. -/

namespace Sys2Proof.Machine

/-! The addresses, in numbers. -/

/-- `page_crossed` compares the high bytes (R112). -/
theorem pageCrossed_eq_decide (base ea : Word) :
    pageCrossed base ea = decide (base &&& 0xFF00#16 ≠ ea &&& 0xFF00#16) :=
  Bool.eq_iff_iff.2 (by rw [pageCrossed, bne_iff_ne, decide_eq_true_iff])

/-- A zero-page address plus an index wraps at 8 bits (R122, R123). -/
theorem zext16_add8 (z i : Byte) : zext16 (add8 z i) = BitVec.ofNat 16 ((z.toNat + i.toNat) % 256) := by
  rw [zext16, add8, BitVec.zeroExtend, ← BitVec.ofNat_toNat, BitVec.toNat_add]

/-- A displacement is added as its signed value (R127; 00_scope.md R16). -/
theorem add16_sext16 (p : Word) (d : Byte) : add16 p (sext16 d) = BitVec.ofInt 16 (p.toNat + s8 d) := by
  rw [BitVec.ofInt_add, BitVec.ofInt_natCast, BitVec.ofNat_toNat, BitVec.setWidth_eq]
  rfl

/-- The result of an indexed resolution: the 16-bit sum, and whether it left the base's page (R112). -/
theorem returnAddress_indexed (s : State) (reads : List (Word × Byte)) (base : Word) (i : Byte) :
    returnAddress (add16 base (zext16 i)) (pageCrossed base (add16 base (zext16 i))) (s.afterReads reads) =
      s.observed reads (.ok (.resolved (base + i.zeroExtend 16)
        (decide (base &&& 0xFF00#16 ≠ (base + i.zeroExtend 16) &&& 0xFF00#16)))) := by
  rw [returnAddress_afterReads, pageCrossed_eq_decide]
  rfl

/-- The two target bytes of a pointer in page 0, low first. -/
theorem readPointer_zext16_of_answers {s : State} {p tlo thi : Byte}
    (h : Answers s [(0x00#8 ++ p, tlo), (0x00#8 ++ (p + 1), thi)]) :
    readPointer (zext16 p) s = (thi ++ tlo, s.afterReads [(0x00#8 ++ p, tlo), (0x00#8 ++ (p + 1), thi)]) := by
  rw [zext16_eq]
  exact readPointer_of_answers h

/-! The modes that make no read. -/

/-- Settles O1: the operand byte lies just before the advanced PC. -/
theorem resolveImmediateIsOperandAddress : Obligations.ResolveImmediateIsOperandAddress := by
  refine ⟨decodeOfEncodeIsTheInstruction .resolveImm, fun s => ?_⟩
  rw [← operandAddr_two (m := .immediate) rfl s, ← returnAddress_eq]
  rfl

/-- Settles O3: both modes answer the address 0 as it stands. -/
theorem resolveImpliedAndAccumulatorReturnNoAddress : Obligations.ResolveImpliedAndAccumulatorReturnNoAddress := by
  refine ⟨decodeOfEncodeIsTheInstruction .resolveImp, decodeOfEncodeIsTheInstruction .resolveAcc, fun s => ?_⟩
  rw [← returnAddress_eq]
  exact ⟨rfl, rfl⟩

/-! The modes that read one operand byte. -/

/-- Settles O6: the operand byte is the address in page 0. -/
theorem resolveZeroPageIsOperandByte : Obligations.ResolveZeroPageIsOperandByte := by
  refine ⟨decodeOfEncodeIsTheInstruction .resolveZp, fun s z h => ?_⟩
  have hread := readOperand8_of_answers (m := .zeroPage) rfl h
  simp only [exec, execResolveZp, hread, zext16_eq, returnAddress_afterReads]

/-- Settles O7: the sum with X is narrowed to the byte before it becomes an address. -/
theorem resolveZeroPageXWrapsInPageZero : Obligations.ResolveZeroPageXWrapsInPageZero := by
  refine ⟨decodeOfEncodeIsTheInstruction .resolveZpx, fun s z h => ?_⟩
  have hread := readOperand8_of_answers (m := .zeroPageX) rfl h
  simp only [exec, execResolveZpx, hread, zext16_add8, returnAddress_afterReads]

/-- Settles O8: the sum with Y is narrowed to the byte before it becomes an address. -/
theorem resolveZeroPageYWrapsInPageZero : Obligations.ResolveZeroPageYWrapsInPageZero := by
  refine ⟨decodeOfEncodeIsTheInstruction .resolveZpy, fun s z h => ?_⟩
  have hread := readOperand8_of_answers (m := .zeroPageY) rfl h
  simp only [exec, execResolveZpy, hread, zext16_add8, returnAddress_afterReads]

/-- Settles O12: the displacement counts from PC itself, not from pc_start. -/
theorem resolveRelativeAddsToAdvancedPC : Obligations.ResolveRelativeAddsToAdvancedPC := by
  refine ⟨decodeOfEncodeIsTheInstruction .resolveRel, fun s d h => ?_⟩
  have hread := readOperand8_of_answers (m := .relative) rfl h
  simp only [exec, execResolveRel, hread, add16_sext16, returnAddress_afterReads, s8]

/-! The modes that read a 16-bit operand. -/

/-- Settles O2: the operand is the address. -/
theorem resolveAbsoluteReadsLittleEndian : Obligations.ResolveAbsoluteReadsLittleEndian := by
  refine ⟨decodeOfEncodeIsTheInstruction .resolveAbs, fun s lo hi h => ?_⟩
  have hread := readOperand16_of_answers (m := .absolute) rfl h
  simp only [exec, execResolveAbs, hread, returnAddress_afterReads]

/-- Settles O4: the operand is the base of an indexed resolution by X. -/
theorem resolveAbsoluteXAddsIndexAndTellsPageCrossing :
    Obligations.ResolveAbsoluteXAddsIndexAndTellsPageCrossing := by
  refine ⟨decodeOfEncodeIsTheInstruction .resolveAbx, ?_⟩
  rintro s lo hi base ea h rfl rfl
  have hread := readOperand16_of_answers (m := .absoluteX) rfl h
  simp only [exec, execResolveAbx, hread, returnAddress_indexed]

/-- Settles O5: the operand is the base of an indexed resolution by Y. -/
theorem resolveAbsoluteYAddsIndexAndTellsPageCrossing :
    Obligations.ResolveAbsoluteYAddsIndexAndTellsPageCrossing := by
  refine ⟨decodeOfEncodeIsTheInstruction .resolveAby, ?_⟩
  rintro s lo hi base ea h rfl rfl
  have hread := readOperand16_of_answers (m := .absoluteY) rfl h
  simp only [exec, execResolveAby, hread, returnAddress_indexed]

/-! The modes that follow a pointer: the operand's reads first, and then, in the state they leave, the pointer's. -/

/-- Settles O9: the pointer is the 16-bit operand, and its two bytes are in one page. -/
theorem resolveIndirectReadsTargetWithinPage : Obligations.ResolveIndirectReadsTargetWithinPage := by
  refine ⟨decodeOfEncodeIsTheInstruction .resolveInd, ?_⟩
  rintro s plo phi tlo thi reads rfl h
  obtain ⟨hop, hptr⟩ := (answers_append s [(s.pc - 2, plo), (s.pc - 1, phi)] _).1 h
  have hread := readOperand16_of_answers (m := .indirect) rfl hop
  simp only [exec, execResolveInd, hread, readPointer_of_answers hptr,
    afterReads_afterReads, returnAddress_afterReads, List.cons_append, List.nil_append]

/-- Settles O10: the pointer is the operand byte plus X, in page 0. -/
theorem resolveIndexedIndirectReadsPointerInPageZero :
    Obligations.ResolveIndexedIndirectReadsPointerInPageZero := by
  refine ⟨decodeOfEncodeIsTheInstruction .resolveIzx, ?_⟩
  rintro s b tlo thi reads rfl h
  obtain ⟨hop, hptr⟩ := (answers_append s [(s.pc - 1, b)] _).1 h
  have hread := readOperand8_of_answers (m := .indexedIndirect) rfl hop
  simp only [exec, execResolveIzx, hread, add8, readPointer_zext16_of_answers hptr,
    afterReads_afterReads, returnAddress_afterReads, List.cons_append, List.nil_append]

/-- Settles O11: the pointer is the operand byte, and its target is the base of an indexed resolution by Y. -/
theorem resolveIndirectIndexedAddsYAfterPointer : Obligations.ResolveIndirectIndexedAddsYAfterPointer := by
  refine ⟨decodeOfEncodeIsTheInstruction .resolveIzy, ?_⟩
  rintro s z blo bhi base ea reads rfl h rfl rfl
  obtain ⟨hop, hptr⟩ := (answers_append s [(s.pc - 1, z)] _).1 h
  have hread := readOperand8_of_answers (m := .indirectIndexed) rfl hop
  simp only [exec, execResolveIzy, hread, readPointer_zext16_of_answers hptr,
    afterReads_afterReads, returnAddress_indexed, List.cons_append, List.nil_append]

/-- Whatever the bus answers, a RESOLVE makes the reads of its mode and returns: each mode's own statement, with the bytes the
bus does answer (R113; 20_memory.md R65). -/
theorem exec_resolveOf_reads (m : AddrMode) (s : State) : ∃ (reads : List (Word × Byte)) (r : Result),
    exec (.resolveOf m) s = .next (s.observed reads r) ∧ Answers s reads ∧
      reads.length = readCount (.resolveOf m) := by
  have one : ∃ z, Answers s [(s.pc - 1, z)] := ⟨_, rfl, trivial⟩
  have two : ∃ lo hi, Answers s [(s.pc - 2, lo), (s.pc - 1, hi)] := ⟨_, _, rfl, rfl, trivial⟩
  cases m with
  | immediate => exact ⟨_, _, resolveImmediateIsOperandAddress.2 s, trivial, rfl⟩
  | implied => exact ⟨_, _, (resolveImpliedAndAccumulatorReturnNoAddress.2.2 s).1, trivial, rfl⟩
  | accumulator => exact ⟨_, _, (resolveImpliedAndAccumulatorReturnNoAddress.2.2 s).2, trivial, rfl⟩
  | zeroPage =>
    obtain ⟨z, h⟩ := one
    exact ⟨_, _, resolveZeroPageIsOperandByte.2 s z h, h, rfl⟩
  | zeroPageX =>
    obtain ⟨z, h⟩ := one
    exact ⟨_, _, resolveZeroPageXWrapsInPageZero.2 s z h, h, rfl⟩
  | zeroPageY =>
    obtain ⟨z, h⟩ := one
    exact ⟨_, _, resolveZeroPageYWrapsInPageZero.2 s z h, h, rfl⟩
  | relative =>
    obtain ⟨d, h⟩ := one
    exact ⟨_, _, resolveRelativeAddsToAdvancedPC.2 s d h, h, rfl⟩
  | absolute =>
    obtain ⟨lo, hi, h⟩ := two
    exact ⟨_, _, resolveAbsoluteReadsLittleEndian.2 s lo hi h, h, rfl⟩
  | absoluteX =>
    obtain ⟨lo, hi, h⟩ := two
    exact ⟨_, _, resolveAbsoluteXAddsIndexAndTellsPageCrossing.2 s lo hi _ _ h rfl rfl, h, rfl⟩
  | absoluteY =>
    obtain ⟨lo, hi, h⟩ := two
    exact ⟨_, _, resolveAbsoluteYAddsIndexAndTellsPageCrossing.2 s lo hi _ _ h rfl rfl, h, rfl⟩
  | indirect =>
    obtain ⟨plo, phi, tlo, thi, h⟩ : ∃ plo phi tlo thi,
        Answers s [(s.pc - 2, plo), (s.pc - 1, phi), (phi ++ plo, tlo), (phi ++ (plo + 1), thi)] :=
      ⟨_, _, _, _, rfl, rfl, rfl, rfl, trivial⟩
    exact ⟨_, _, resolveIndirectReadsTargetWithinPage.2 s plo phi tlo thi _ rfl h, h, rfl⟩
  | indexedIndirect =>
    obtain ⟨b, tlo, thi, h⟩ : ∃ b tlo thi,
        Answers s [(s.pc - 1, b), (0x00#8 ++ (b + s.x), tlo), (0x00#8 ++ (b + s.x + 1), thi)] :=
      ⟨_, _, _, rfl, rfl, rfl, trivial⟩
    exact ⟨_, _, resolveIndexedIndirectReadsPointerInPageZero.2 s b tlo thi _ rfl h, h, rfl⟩
  | indirectIndexed =>
    obtain ⟨z, blo, bhi, h⟩ : ∃ z blo bhi,
        Answers s [(s.pc - 1, z), (0x00#8 ++ z, blo), (0x00#8 ++ (z + 1), bhi)] :=
      ⟨_, _, _, rfl, rfl, rfl, trivial⟩
    exact ⟨_, _, resolveIndirectIndexedAddsYAfterPointer.2 s z blo bhi _ _ _ rfl h rfl rfl, h, rfl⟩

/-- NBYTES makes no read (R114; 20_memory.md R75). -/
theorem readCount_nbytesOf (m : AddrMode) : readCount (.nbytesOf m) = 0 := by
  cases m <;> rfl

/-- Settles O29: RESOLVE makes the reads of its mode, NBYTES none, and every other command is a counter command. -/
theorem resolverWritesNothingButReads : Obligations.ResolverWritesNothingButReads := by
  intro i hi s
  rcases instr_cases i with ⟨m, rfl⟩ | ⟨m, rfl⟩ | ⟨o, ho⟩
  · exact exec_resolveOf_reads m s
  · exact ⟨[], _, exec_nbytes_observed s m, trivial, (readCount_nbytesOf m).symm⟩
  · exact absurd ho (hi o)

end Sys2Proof.Machine

/-! NBYTES, and the words of MODE 0xD to 0xF (40_address_resolver.md R114, R128, R129). -/

namespace Sys2Proof.Machine

/-- The NBYTES words are 0x4000 plus MODE (30_encoding.md R82, R95). -/
theorem formatA_nbytes (m : AddrMode) : formatA 1#1 (modeCode m) = 0x4000#16 ||| (modeCode m).zeroExtend 16 := by
  cases m <;> rfl

/-- NBYTES of any of the modes of one length. -/
theorem exec_nbytesOf_of_length {n : Nat} {ms : List AddrMode} (h : ∀ m ∈ ms, nBytes m = n) :
    ∀ i ∈ ms.map Instr.nbytesOf, ∀ s : State,
      exec i s = .next (s.observed [] (.ok (.length (BitVec.ofNat 2 n)))) := by
  intro i hi s
  obtain ⟨m, hm, rfl⟩ := List.mem_map.1 hi
  rw [exec_nbytes_observed, h m hm]

/-- A word that decodes to a fault enters it (60_exceptions.md R196), and the step does nothing else. -/
theorem step_of_decode_error {s : State} {w : Word} {rest : List HostInput} {c : Cause}
    (hin : s.inputs = .command w :: rest) (hc : s.cause = 0) (hd : decode w = .error c) :
    step s = .next { s with
      inputs := rest, fault := (causeCode c).zeroExtend 8, faultInfo := w,
      trace := s.trace ++ [.input (.command w), .returned (.err c)] } := by
  rw [step_command hin hc, hd]
  simp [enterFault, State.ret, State.record, State.afterInput]

/-- RESOLVE and NBYTES of MODE 0xD, 0xE and 0xF are in the class of R92 that has no mode. -/
theorem decode_invalidMode_words : ∀ w ∈ [0x000D#16, 0x000E#16, 0x000F#16, 0x400D#16, 0x400E#16, 0x400F#16],
    decode w = .error .invalidAddressingMode := by
  intro w hw
  obtain ⟨-, hinvalid, -⟩ := faultingWordsAreTheReservedClasses w
  rw [hinvalid]
  simp only [List.mem_cons, List.not_mem_nil, or_false] at hw
  rcases hw with rfl | rfl | rfl | rfl | rfl | rfl <;> decide

/-- Settles O45: the six words decode to InvalidAddressingMode, and the step enters that fault. -/
theorem invalidModeIsNeverDefaulted : Obligations.InvalidModeIsNeverDefaulted :=
  fun w hw _ _ hin hc => step_of_decode_error hin hc (decode_invalidMode_words w hw)

/-- Settles O14: the three words of no mode are among those of O45, and the lengths are the table of R90. -/
theorem nbytesReturnsModeLength : Obligations.NbytesReturnsModeLength := by
  refine ⟨fun m => ?_, fun w hw => ?_, ?_, ?_, ?_⟩
  · rw [← formatA_nbytes]
    exact decode_formatA 1#1 m
  · have hw' := List.mem_append_right [0x000D#16, 0x000E#16, 0x000F#16] hw
    exact ⟨decode_invalidMode_words w hw', invalidModeIsNeverDefaulted w hw'⟩
  · exact exec_nbytesOf_of_length (ms := [.implied, .accumulator]) (by decide)
  · exact exec_nbytesOf_of_length (ms := [.immediate, .zeroPage, .zeroPageX, .zeroPageY, .indexedIndirect,
      .indirectIndexed, .relative]) (by decide)
  · exact exec_nbytesOf_of_length (ms := [.absolute, .absoluteX, .absoluteY, .indirect]) (by decide)

end Sys2Proof.Machine

/-! Runs of CLOCKs and APPLY_HMOVEs on one counter, in numbers (41_position_counter.md R155, R157, R160). -/

namespace Sys2Proof.Machine

theorem Counter.clock_iterate_inv {c : Counter} (h : c.Inv) (n : Nat) : (Counter.clock^[n] c).Inv :=
  Function.Iterate.rec Counter.Inv h (fun _ => Counter.clock_inv) n

/-- `n` CLOCKs of a legal counter move internal_value by `n`, with the wrap at 4*period; last_value is the position after
the last of them, and the other fields stay (R155, R160). -/
theorem Counter.clock_iterate {c : Counter} (h : c.Inv) (n : Nat) : ∃ (iv : Word) (pos : Byte),
    Counter.clock^[n] c = { c with internalValue := iv, lastValue := pos } ∧
    iv.toNat = (c.internalValue.toNat + n) % (4 * c.period.toNat) ∧
    (0 < n → pos.toNat = iv.toNat / 4) ∧ (n = 0 → pos = c.lastValue) := by
  have hiv : c.internalValue.toNat < 4 * c.period.toNat := by
    obtain ⟨-, -, -, hlt, -⟩ := h
    omega
  induction n with
  | zero => exact ⟨c.internalValue, c.lastValue, rfl, (Nat.mod_eq_of_lt hiv).symm, nofun, fun _ => rfl⟩
  | succ n ih =>
    obtain ⟨iv, pos, heq, hval, -, -⟩ := ih
    have hinv := Counter.clock_iterate_inv h n
    have htick := Counter.tick_internal hinv
    have hpos := (Counter.position_toNat (Counter.tick_lt hinv)).1
    rw [heq] at htick hpos
    rw [Function.iterate_succ_apply', heq, Counter.clock_eq]
    refine ⟨_, _, rfl, ?_, fun _ => hpos, nofun⟩
    rw [htick, hval, Nat.mul_comm c.period.toNat 4, Nat.mod_add_mod, Nat.add_assoc]

/-- From a counter whose last_value is its position, last_value stays the position (R160). -/
theorem Counter.clock_iterate_of_lastValue_eq {c : Counter} (h : c.Inv)
    (hlast : c.lastValue.toNat = c.internalValue.toNat / 4) (n : Nat) : ∃ (iv : Word) (pos : Byte),
    Counter.clock^[n] c = { c with internalValue := iv, lastValue := pos } ∧
    iv.toNat = (c.internalValue.toNat + n) % (4 * c.period.toNat) ∧ pos.toNat = iv.toNat / 4 := by
  obtain ⟨iv, pos, heq, hval, hpos, hpos0⟩ := Counter.clock_iterate h n
  obtain ⟨-, -, -, hlt, -⟩ := h
  refine ⟨iv, pos, heq, hval, ?_⟩
  rcases Nat.eq_zero_or_pos n with rfl | hn
  · rw [hpos0 rfl, hlast, hval, Nat.add_zero, Nat.mod_eq_of_lt (by omega)]
  · exact hpos hn

/-- When last_value is the position, CLOCK reports a transition exactly on a boundary of four (R155, R160); with period 1 there
is one position and no transition. -/
theorem Counter.clockTrans_of_lastValue_eq {c : Counter} (h : c.Inv) (hp : 1 < c.period.toNat)
    (hlast : c.lastValue.toNat = c.internalValue.toNat / 4) :
    c.clockTrans = decide (4 ∣ c.internalValue.toNat + 1) := by
  have htick := Counter.tick_internal h
  have hpos := (Counter.position_toNat (Counter.tick_lt h)).1
  obtain ⟨-, -, -, hiv, -⟩ := h
  rw [Bool.eq_iff_iff, Counter.clockTrans_iff, decide_eq_true_iff, ne_eq, BitVec.toNat_eq, hpos, htick, hlast]
  rcases Nat.lt_or_ge (c.internalValue.toNat + 1) (c.period.toNat * 4) with hlt | hge
  · rw [Nat.mod_eq_of_lt hlt]
    omega
  · have hwrap : c.internalValue.toNat + 1 = c.period.toNat * 4 := by omega
    rw [hwrap, Nat.mod_self]
    omega

/-- The counter with another motion count. -/
def Counter.withCount (c : Counter) (n : Byte) : Counter := { c with clocksToAdd := n }

theorem Counter.applyHmove_eq (c : Counter) : c.applyHmove = c.withCount c.applyHmove.clocksToAdd := rfl

/-- CLOCK does not look at the motion count (10_state.md R40). -/
theorem Counter.clock_iterate_withCount (c : Counter) (n : Byte) (k : Nat) :
    Counter.clock^[k] (c.withCount n) = (Counter.clock^[k] c).withCount n := by
  have hcomm : Function.Semiconj (·.withCount n) Counter.clock Counter.clock := fun _ => rfl
  exact (hcomm.iterate_right k c).symm

/-- CONT is whether the count was above 1 (R157). -/
theorem stillMoving_applyHmove (c : Counter) :
    stillMoving c.applyHmove.clocksToAdd = decide (1 < c.clocksToAdd.toNat) := by
  rw [Bool.eq_iff_iff, stillMoving_iff, Counter.applyHmove_count, decide_eq_true_iff]
  omega

end Sys2Proof.Machine

/-! The counter commands one by one (41_position_counter.md R150 to R157): their words, and their effects. -/

namespace Sys2Proof.Machine

/-- A word is the word of its high byte plus its low byte. -/
theorem word_append_eq_add (hi d : Byte) : hi ++ d = hi ++ 0x00#8 + BitVec.ofNat 16 d.toNat := by
  apply BitVec.eq_of_toNat_eq
  rw [BitVec.toNat_add, toNat_word_append, toNat_word_append, BitVec.toNat_ofNat, BitVec.toNat_ofNat]
  have := hi.isLt
  have := d.isLt
  omega

/-- DATA is the low byte of a Format B word (30_encoding.md R83). -/
theorem formatB_eq_add_data (op o : BitVec 3) (d : Byte) :
    formatB op o d = formatB op o 0x00#8 + BitVec.ofNat 16 d.toNat :=
  word_append_eq_add _ d

theorem encode_setvOn_eq_counterWord (o : Obj) (v : Byte) :
    encode (.setvOn o v) = counterWord 0xA000#16 o + BitVec.ofNat 16 v.toNat := by
  rw [encode_setvOn, formatB_eq_add_data]
  cases o <;> rfl

theorem encode_hmstartOn_eq_counterWord (o : Obj) (hm : Byte) :
    encode (.hmstartOn o hm) = counterWord 0xC000#16 o + BitVec.ofNat 16 hm.toNat := by
  rw [encode_hmstartOn, formatB_eq_add_data]
  cases o <;> rfl

theorem encode_resetOn_eq_counterWord (o : Obj) : encode (.resetOn o) = counterWord 0x8000#16 o := by cases o <;> rfl
theorem encode_valueOn_eq_counterWord (o : Obj) : encode (.valueOn o) = counterWord 0x9000#16 o := by cases o <;> rfl
theorem encode_hmapplyOn_eq_counterWord (o : Obj) : encode (.hmapplyOn o) = counterWord 0xD000#16 o := by
  cases o <;> rfl
theorem encode_clockOn_eq_counterWord (o : Obj) : encode (.clockOn o) = counterWord 0xB000#16 o := by
  cases o <;> rfl

/-- Settles O15: RESET is a write of the counter, whose other fields `Counter.reset` keeps. -/
theorem counterResetLoadsDefaultPosition : Obligations.CounterResetLoadsDefaultPosition := by
  refine fun o => ⟨encode_resetOn_eq_counterWord o ▸ decodeOfEncodeIsTheInstruction _, fun s => ?_⟩
  exact ⟨_, _, exec_resetOn s o, onlyCounter_setCnt_ret s o _ _, resetCommand_cnt_same s o, Counter.reset_internal _⟩

/-- Settles O16: VALUE is a return of the position, which is below period in a legal counter. -/
theorem counterValueReturnsPosition : Obligations.CounterValueReturnsPosition := by
  refine fun o => ⟨encode_valueOn_eq_counterWord o ▸ decodeOfEncodeIsTheInstruction _, fun s hinv => ?_⟩
  obtain ⟨-, -, -, hlt, -⟩ := hinv
  obtain ⟨hpos, hperiod⟩ := Counter.position_toNat hlt
  exact ⟨_, by rw [exec_valueOn, valueCommand, ret_eq_observed], hpos, hperiod⟩

/-- Settles O17: below period, SET_VALUE is a write of the counter. -/
theorem counterSetValueWritesPosition : Obligations.CounterSetValueWritesPosition := by
  refine fun o v => ⟨encode_setvOn_eq_counterWord o v ▸ decodeOfEncodeIsTheInstruction _, fun s hv => ?_⟩
  refine ⟨_, _, ?_, onlyCounter_setCnt_ret s o ((s.cnt o).setValue v) _, setCnt_cnt_same s o _,
    Counter.setValue_internal (s.cnt o) v⟩
  rw [exec_setvOn, setValueCommand_of_lt s o hv]

/-- Settles O19: CLOCK writes the ticked value and its position, whether that changed or not. -/
theorem counterClockStepsAndTellsTransition : Obligations.CounterClockStepsAndTellsTransition := by
  refine fun o => ⟨encode_clockOn_eq_counterWord o ▸ decodeOfEncodeIsTheInstruction _, fun s hinv => ?_⟩
  refine ⟨_, _, _, _, exec_clockOn s o, onlyCounter_setCnt_ret s o _ _, ?_, Counter.tick_internal hinv,
    (Counter.position_toNat (Counter.tick_lt hinv)).1, Counter.clockTrans_iff _⟩
  rw [clockCommand_cnt_same, Counter.clock_eq]
  rfl

/-- Settles O20: START_HMOVE writes the count of the table of R89. -/
theorem counterStartHmoveLoadsNibble : Obligations.CounterStartHmoveLoadsNibble := by
  refine fun o hm => ⟨encode_hmstartOn_eq_counterWord o hm ▸ decodeOfEncodeIsTheInstruction _, fun s => ?_⟩
  exact ⟨_, _, exec_hmstartOn s o hm, onlyCounter_setCnt_ret s o _ _, startHmoveCommand_cnt_same s o hm,
    motionCount_toNat hm⟩

/-- Settles O21: APPLY_HMOVE writes the count less one, and CONT is whether it was above 1. -/
theorem counterApplyHmoveCountsDown : Obligations.CounterApplyHmoveCountsDown := by
  refine fun o => ⟨encode_hmapplyOn_eq_counterWord o ▸ decodeOfEncodeIsTheInstruction _, fun s => ?_⟩
  refine ⟨_, _, _, exec_hmapplyOn s o, onlyCounter_setCnt_ret s o _ _, applyHmoveCommand_cnt_same s o,
    Counter.applyHmove_count _, ?_⟩
  rw [stillMoving_applyHmove, decide_eq_true_iff]

/-- Settles O26: 0 is the only position of a legal counter of period 1, before and after CLOCK. -/
theorem periodOneNeverTransits : Obligations.PeriodOneNeverTransits := by
  have hzero {c : Counter} (h : c.Inv) (hp : c.period = 1#8) : c.lastValue = 0 := by
    obtain ⟨-, -, -, -, hlast⟩ := h
    rw [hp] at hlast
    exact BitVec.eq_of_toNat_eq (Nat.lt_one_iff.1 hlast)
  intro s o hinv hp
  have hclock : (s.cnt o).clock.lastValue = 0 := hzero (Counter.clock_inv hinv) hp
  refine ⟨_, exec_clockOn s o, ?_, by rw [clockCommand_cnt_same, hclock]⟩
  rw [Counter.clock_lastValue] at hclock
  have htrans : (s.cnt o).clockTrans = false := by
    rw [Counter.clockTrans, hclock, hzero hinv hp]
    rfl
  rw [clockCommand, ret_lastResult, htrans]

/-- SET_VALUE outside its domain enters CounterDomain with its own word and writes no counter (R154, R196). -/
theorem exec_setvOn_of_ge {o : Obj} {v : Byte} {s : State} (hv : (s.cnt o).period.toNat ≤ v.toNat) :
    exec (.setvOn o v) s = .next { s with fault := 0x03#8, faultInfo := encode (.setvOn o v),
                                          trace := s.trace ++ [.returned (.err .counterDomain)] } := by
  rw [exec_setvOn, setValueCommand_of_ge s o hv]
  rfl

/-- Settles O33: what a counter command does is a function of its counter, the choice between the effect and the fault too. -/
theorem counterCommandsAreIndependent : Obligations.CounterCommandsAreIndependent := by
  intro i o s s' hi heq
  by_cases hdom : ∃ v, i = .setvOn o v ∧ (s.cnt o).period.toNat ≤ v.toNat
  · obtain ⟨v, rfl, hle⟩ := hdom
    exact ⟨_, _, exec_setvOn_of_ge hle, exec_setvOn_of_ge (heq ▸ hle), heq, .inr ⟨⟨v, rfl, hle⟩, rfl, rfl⟩⟩
  · have hlt (v : Byte) (hv : i = .setvOn o v) : v.toNat < (s.cnt o).period.toNat :=
      not_le.1 fun hle => hdom ⟨v, hv, hle⟩
    obtain ⟨f, out, -, hx⟩ := exec_counter_own hi
    have hx' := hx s' (heq ▸ hlt)
    rw [← heq] at hx'
    refine ⟨_, _, hx s hlt, hx', ?_, .inl ⟨_, onlyCounter_setCnt_ret s o _ _, onlyCounter_setCnt_ret s' o _ _⟩⟩
    rw [ret_cnt, ret_cnt, setCnt_cnt_same, setCnt_cnt_same]

end Sys2Proof.Machine

/-! Runs of counter commands (41_position_counter.md R157, R159, R160). -/

namespace Sys2Proof.Machine

/-- The first command of a run. -/
theorem execAll_cons {i : Instr} {s t : State} (h : exec i s = .next t) (is : List Instr) :
    execAll (i :: is) s = execAll is t := by
  rw [execAll, h]

/-- Settles O24: either command leaves the counter at four times the value, whose position VALUE returns. -/
theorem valueAfterSetOrResetIsTheValueWritten : Obligations.ValueAfterSetOrResetIsTheValueWritten := by
  have hread {c : Counter} {v : Byte} (h : c.internalValue.toNat = v.toNat * 4) : c.position = v := by
    rw [Counter.position, h, Nat.mul_div_cancel _ (by decide), BitVec.ofNat_toNat, BitVec.setWidth_eq]
  intro s o _
  refine ⟨fun v hv => ?_, ?_⟩
  · refine ⟨_, (execAll_cons (exec_setvOn s o v) _).trans (by rw [execAll_singleton, exec_valueOn]), ?_⟩
    rw [valueCommand, ret_lastResult, setValueCommand_of_lt s o hv, ret_cnt, setCnt_cnt_same,
      hread (Counter.setValue_internal _ v)]
  · refine ⟨_, (execAll_cons (exec_resetOn s o) _).trans (by rw [execAll_singleton, exec_valueOn]), ?_⟩
    rw [valueCommand, ret_lastResult, resetCommand_cnt_same, hread (Counter.reset_internal _)]

/-- Settles O23: by induction on the number of commands, the last one finding the count `k - n`. -/
theorem hmoveCountReturnsContUntilConsumed : Obligations.HmoveCountReturnsContUntilConsumed := by
  intro s o n
  induction n with
  | zero => exact ⟨s, (s.cnt o).clocksToAdd, rfl, rfl, rfl, fun _ _ => rfl, (List.append_nil _).symm⟩
  | succ n ih =>
    obtain ⟨t, count, hrun, hcnt, hcount, hne, htrace⟩ := ih
    have hload : (t.cnt o).clocksToAdd = count := by rw [hcnt]
    have hcont : stillMoving (t.cnt o).applyHmove.clocksToAdd = decide (n + 1 < (s.cnt o).clocksToAdd.toNat) := by
      rw [stillMoving_applyHmove, hload, hcount, decide_eq_decide]
      omega
    refine ⟨applyHmoveCommand o t, (t.cnt o).applyHmove.clocksToAdd, ?_, ?_, ?_, fun o' ho => ?_, ?_⟩
    · rw [List.replicate_succ', execAll_append s _ hrun, execAll_singleton, exec_hmapplyOn]
    · rw [applyHmoveCommand_cnt_same, hcnt]
      rfl
    · rw [Counter.applyHmove_count, hload, hcount, Nat.sub_sub]
    · rw [applyHmoveCommand_cnt_ne t ho, hne o' ho]
    · rw [applyHmoveCommand_trace, htrace, hcont, List.range_succ, List.map_append, List.append_assoc]
      rfl

/-- Settles O34: each of the two writes its own counter by a function of that counter, and the two writes commute. -/
theorem clocksOnTwoObjectsCommute : Obligations.ClocksOnTwoObjectsCommute := by
  intro i j o o' s hc hai haj hne hi hj
  obtain ⟨f, out, -, hf⟩ := exec_counter_own hi
  obtain ⟨g, out', -, hg⟩ := exec_counter_own hj
  obtain ⟨-, hdi⟩ := hai
  obtain ⟨-, hdj⟩ := haj
  have hij := hg ((s.setCnt o (f (s.cnt o))).ret (.ok (out (s.cnt o))))
  have hji := hf ((s.setCnt o' (g (s.cnt o'))).ret (.ok (out' (s.cnt o'))))
  rw [ret_cnt, setCnt_cnt_ne s _ hne.symm] at hij
  rw [ret_cnt, setCnt_cnt_ne s _ hne] at hji
  refine ⟨_, _, (execAll_cons (hf s (hdi o)) _).trans ((execAll_singleton _ _).trans (hij (hdj o'))),
    (execAll_cons (hg s (hdj o')) _).trans ((execAll_singleton _ _).trans (hji (hdi o))), ?_, hc, hc⟩
  exact perObjSet_comm s.counters _ _ hne

/-- An admitted run whose commands on `o` are all CLOCKs ends in a block that is not halted, with `o`'s counter clocked as often
as the run says (41_position_counter.md R160). -/
theorem execAll_clock_run {o : Obj} {run : List Instr} {s : State} (hadm : ∀ i ∈ run, s.Admits i)
    (hclock : ∀ i ∈ run, IsCounterCommand i o → i = .clockOn o) :
    ∃ t, execAll run s = .next t ∧ t.cause = s.cause ∧
      t.cnt o = Counter.clock^[run.count (.clockOn o)] (s.cnt o) := by
  induction run generalizing s with
  | nil => exact ⟨s, rfl, rfl, rfl⟩
  | cons i run ih =>
    obtain ⟨hai, hadm'⟩ := List.forall_mem_cons.1 hadm
    obtain ⟨hci, hclock'⟩ := List.forall_mem_cons.1 hclock
    obtain ⟨u, hx, hcause, hstill, hother⟩ := exec_admitted hai
    obtain ⟨t, hrun, hcause', hcnt⟩ := ih (fun j hj => hstill j (hadm' j hj)) hclock'
    refine ⟨t, (execAll_cons hx run).trans hrun, hcause'.trans hcause, ?_⟩
    rw [hcnt]
    by_cases hio : i = .clockOn o
    · subst hio
      cases (exec_clockOn s o).symm.trans hx
      rw [clockCommand_cnt_same, List.count_cons_self, Function.iterate_succ_apply]
    · rw [hother o fun h => hio (hci h), List.count_cons_of_ne hio]

/-- Settles O22: the run is `execAll_clock_run`, and the CLOCKs of an aligned counter keep last_value at the position. -/
theorem clockRunWrapsAndTransitsEveryFourth : Obligations.ClockRunWrapsAndTransitsEveryFourth := by
  intro s o q n run hc hadm hinv hiv hlast hclock hn
  obtain ⟨t, hrun, hcause, hiter⟩ := execAll_clock_run hadm hclock
  obtain ⟨iv, pos, heq, hval, hpos⟩ := Counter.clock_iterate_of_lastValue_eq hinv (by omega) n
  rw [← hn] at hiter
  rw [hiv] at hval
  have hcnt := hiter.trans heq
  refine ⟨t, iv, pos, hrun, hcause.trans hc, hcnt, hval, hpos, fun hfull => ?_, fun hp => ?_⟩
  · obtain ⟨-, -, -, hlt, -⟩ := hinv
    rw [hfull, Nat.add_mod_right, Nat.mod_eq_of_lt (by omega)] at hval
    have hiv' : iv = (s.cnt o).internalValue := BitVec.eq_of_toNat_eq (hval.trans hiv.symm)
    have hpos' : pos = (s.cnt o).lastValue := BitVec.eq_of_toNat_eq (by omega)
    rw [hcnt, hiv', hpos']
  · have hinvt : (t.cnt o).Inv := hiter ▸ Counter.clock_iterate_inv hinv n
    have hmod : iv.toNat % 4 = n % 4 := by
      rw [hval, Nat.mod_mul_right_mod]
      omega
    have htrans : (t.cnt o).clockTrans = decide (4 ∣ n + 1) := by
      rw [hcnt] at hinvt ⊢
      rw [Counter.clockTrans_of_lastValue_eq hinvt hp hpos, decide_eq_decide]
      simp only
      omega
    exact ⟨_, exec_clockOn t o, by rw [clockCommand, ret_lastResult, htrans]⟩

end Sys2Proof.Machine

/-! RST outside the domain of NEW (41_position_counter.md R151). -/

namespace Sys2Proof.Machine

/-- Settles O51: one object outside NEW's domain is enough for the step on RST to refuse. -/
theorem illegalConfigurationIsRefused : Obligations.IllegalConfigurationIsRefused := by
  intro s ps rest o hi hbad
  have hwf : ¬ ps.paramsWf = true := by
    intro hps
    obtain ⟨hperiod, hle, hlt⟩ := (ObjParams.wf_iff _).1 ((paramsWf_iff ps).1 hps o)
    omega
  rw [step_rst hi, if_neg hwf]

end Sys2Proof.Machine

/-! The motion of an object under HMOVE_PROTOCOL, step by step (41_position_counter.md R158). -/

namespace Sys2Proof.Machine

@[simp] theorem perObjSet_perObjSet {α : Type} (t : PerObj α) (o : Obj) (x y : α) :
    perObjSet (perObjSet t o x) o y = perObjSet t o y := by
  cases o <;> rfl

/-- `t` is `s` with `c` as the counter of `o`, `rest` as the pending inputs, and whatever history. -/
def MovedTo (o : Obj) (c : Counter) (rest : List HostInput) (s t : State) : Prop :=
  t = { s.setCnt o c with inputs := rest, trace := t.trace }

section
variable {o : Obj} {c : Counter} {rest : List HostInput} {s t : State} (h : MovedTo o c rest s t)
include h

theorem MovedTo.cnt_same : t.cnt o = c := by
  rw [h]
  exact setCnt_cnt_same s o c

theorem MovedTo.cnt_ne {o' : Obj} (ho : o' ≠ o) : t.cnt o' = s.cnt o' := by
  rw [h]
  exact setCnt_cnt_ne s c ho

theorem MovedTo.cause : t.cause = s.cause := by
  rw [h]
  rfl

theorem MovedTo.inputs : t.inputs = rest := by
  rw [h]

theorem MovedTo.trans {c' : Counter} {rest' : List HostInput} {u : State} (h' : MovedTo o c' rest' t u) :
    MovedTo o c' rest' s u := by
  rw [MovedTo] at *
  rw [h', h]
  simp [State.setCnt]

end

/-- A run in two parts. -/
theorem run_add_of_next {M : Host.Core} {m : Nat} {s t : M.State} (h : M.run m s = .next t) (n : Nat) :
    M.run (m + n) s = M.run n t := by
  induction m generalizing s with
  | zero =>
    cases h
    rw [Nat.zero_add]
  | succ m ih =>
    rw [Nat.succ_add, Host.Core.run]
    rw [Host.Core.run] at h
    cases hs : M.step s with
    | next u =>
      rw [hs] at h
      exact ih h
    | fault r =>
      rw [hs] at h
      cases h
    | refused r =>
      rw [hs] at h
      cases h

/-- A run by its first step. -/
theorem run_succ_of_next {M : Host.Core} {s t : M.State} (h : M.step s = .next t) (n : Nat) :
    M.run (n + 1) s = M.run n t := by
  rw [Host.Core.run, h]

theorem resolveMode_clockOn (o : Obj) : (Instr.clockOn o).resolveMode = none := by
  cases o <;> rfl

/-- A CLOCK word taken by a block that is not halted. -/
theorem hostStep_clock (hp : HmoveProtocol) {s : State} {o : Obj} {rest : List HostInput}
    (hi : s.inputs = .command (encode (.clockOn o)) :: rest) (hc : s.cause = 0) :
    ∃ t, hostStep hp s = .next t ∧ MovedTo o (s.cnt o).clock rest s t := by
  rw [hostStep_command hp hi hc, decodeOfEncodeIsTheInstruction]
  refine ⟨clockCommand o (s.afterInput (.command (encode (.clockOn o))) rest), ?_, rfl⟩
  exact (if_pos (processorReady_of_resolveMode_none _ (resolveMode_clockOn o))).trans (exec_clockOn _ o)

/-- The host's CLOCK words that stand first in its list, one step each. -/
theorem run_clocks (hp : HmoveProtocol) {o : Obj} {rest : List HostInput} {k : Nat} {s : State}
    (hi : s.inputs = List.replicate k (.command (encode (.clockOn o))) ++ rest) (hc : s.cause = 0) :
    ∃ t, (machineUnder hp).run k s = .next t ∧ MovedTo o (Counter.clock^[k] (s.cnt o)) rest s t := by
  induction k generalizing s with
  | zero =>
    refine ⟨s, rfl, ?_⟩
    rw [List.replicate_zero, List.nil_append] at hi
    rw [← hi, Function.iterate_zero_apply, MovedTo, setCnt_cnt_self]
  | succ k ih =>
    rw [List.replicate_succ, List.cons_append] at hi
    obtain ⟨t, hstep, ht⟩ := hostStep_clock hp hi hc
    obtain ⟨u, hrun, hu⟩ := ih ht.inputs (ht.cause.trans hc)
    rw [ht.cnt_same] at hu
    exact ⟨u, (run_succ_of_next hstep k).trans hrun, ht.trans hu⟩

/-- An APPLY_HMOVE of a motion on a block that is not halted, and the protocol's reaction to its answer (R157, R158). -/
theorem hostStep_motion_movedTo (hp : HmoveProtocol) {s : State} {o : Obj} {rest : List HostInput}
    (hi : s.inputs = .motion o :: rest) (hc : s.cause = 0) :
    ∃ t, hostStep hp s = .next t ∧ MovedTo o (s.cnt o).applyHmove
      (motionInputs hp t.trace o (decide (1 < (s.cnt o).clocksToAdd.toNat)) ++ rest) s t := by
  refine ⟨_, hostStep_motion hp hi hc, ?_⟩
  rw [MovedTo, followMotion_trace, followMotion, applyHmoveCommand_answeredCont, stillMoving_applyHmove]
  rfl

section
variable {hp : HmoveProtocol} {o : Obj} {k : Nat} (hk : ∀ h cont, hp.extraClocks h o cont = k)
  (hstop : ∀ h cont, hp.stops h o cont = !cont)
include hk hstop

/-- What such a protocol issues on an answer. -/
theorem motionInputs_eq (h : List Event) (cont : Bool) : motionInputs hp h o cont =
    List.replicate k (.command (encode (.clockOn o))) ++ (if cont then [.motion o] else []) := by
  rw [motionInputs, hk, hstop]
  cases cont <;> rfl

/-- One round of a motion: APPLY_HMOVE and its `k` CLOCKs, after which the motion goes on exactly on CONT = 1 (R158). -/
theorem run_motion_round {s : State} {rest : List HostInput} (hi : s.inputs = .motion o :: rest) (hc : s.cause = 0) :
    ∃ t, (machineUnder hp).run (k + 1) s = .next t ∧
      MovedTo o (Counter.clock^[k] (s.cnt o).applyHmove)
        ((if 1 < (s.cnt o).clocksToAdd.toNat then [.motion o] else []) ++ rest) s t := by
  obtain ⟨u, hstep, hu⟩ := hostStep_motion_movedTo hp hi hc
  have hinputs := hu.inputs
  rw [motionInputs_eq hk hstop, List.append_assoc] at hinputs
  obtain ⟨t, hrun, ht⟩ := run_clocks hp hinputs (hu.cause.trans hc)
  rw [hu.cnt_same] at ht
  simp only [decide_eq_true_iff] at ht
  exact ⟨t, (run_succ_of_next hstep k).trans hrun, hu.trans ht⟩

/-- A whole motion: one round while the count is above 1, and a last one (R158). -/
theorem run_motion {m : Nat} {s : State} {rest : List HostInput} (hi : s.inputs = .motion o :: rest)
    (hc : s.cause = 0) (hm : m = max 1 (s.cnt o).clocksToAdd.toNat) :
    ∃ t, (machineUnder hp).run (m * (k + 1)) s = .next t ∧
      MovedTo o ((Counter.clock^[m * k] (s.cnt o)).withCount 0) rest s t := by
  induction m generalizing s with
  | zero => omega
  | succ m ih =>
    obtain ⟨t, hrun, ht⟩ := run_motion_round hk hstop hi hc
    have hcount := Counter.applyHmove_count (s.cnt o)
    rw [Counter.applyHmove_eq, Counter.clock_iterate_withCount] at ht
    by_cases hmore : 1 < (s.cnt o).clocksToAdd.toNat
    · rw [if_pos hmore] at ht
      have hleft : m = max 1 (s.cnt o).applyHmove.clocksToAdd.toNat := by omega
      obtain ⟨u, hrun', hu⟩ := ih ht.inputs (ht.cause.trans hc) (by rw [ht.cnt_same]; exact hleft)
      rw [ht.cnt_same, Counter.clock_iterate_withCount, ← Function.iterate_add_apply, ← Nat.succ_mul] at hu
      exact ⟨u, by rw [Nat.succ_mul, Nat.add_comm, run_add_of_next hrun, hrun'], ht.trans hu⟩
    · obtain rfl : m = 0 := by omega
      have hzero : (s.cnt o).applyHmove.clocksToAdd = 0 := BitVec.eq_of_toNat_eq (by simp; omega)
      rw [if_neg hmore, hzero] at ht
      refine ⟨t, ?_, ?_⟩
      · simpa using hrun
      · simpa using ht

end

/-- Settles O13: the step is `hostStep_motion`; the motion is `run_motion`, whose CLOCKs move the counter as
`Counter.clock_iterate` says. -/
theorem motionFollowsItsProtocol : Obligations.MotionFollowsItsProtocol := by
  intro hp s o rest hi hc
  refine ⟨?_, fun k m hinv hk hstop hm => ?_⟩
  · have hstep := hostStep_motion hp hi hc
    refine ⟨applyHmoveCommand o (s.afterInput (.motion o) rest), _, exec_hmapplyOn _ o, ret_lastResult _ _, ?_⟩
    rw [hstep, followMotion, applyHmoveCommand_answeredCont, motionInputs, encode_clockOn_eq_counterWord,
      applyHmoveCommand_inputs, afterInput_inputs, List.append_assoc, apply_ite (· ++ rest)]
    rfl
  · obtain ⟨t, hrun, ht⟩ := run_motion hk hstop hi hc hm
    obtain ⟨iv, pos, heq, hiv, hpos, hpos0⟩ := Counter.clock_iterate hinv (m * k)
    have hm1 : 0 < m := by omega
    refine ⟨t, iv, pos, hrun, ?_, ?_, hiv, fun h => hpos (Nat.mul_pos hm1 h),
      fun h => hpos0 (by rw [h, Nat.mul_zero]), fun o' ho => ht.cnt_ne ho⟩
    · rw [ht]
      rfl
    · rw [ht.cnt_same, heq]
      rfl

end Sys2Proof.Machine

/-! Fault entry and the halted state (60_exceptions.md R195, R196, R197). -/

namespace Sys2Proof.Machine

/-- Settles O48: a halted block takes no command and no motion, and the host's own writes are none of the block's state. -/
theorem onlyResetLeavesTheHaltedState : Obligations.OnlyResetLeavesTheHaltedState := by
  intro s t hc h
  obtain ⟨i, rest, hin, hcase⟩ := step_cases h
  rcases hcase with ⟨w, c, -, h0, -, -⟩ | ⟨w, j, -, h0, -, -, -⟩ | ⟨o, -, h0, -⟩ | ⟨ps, rfl, -, -⟩ |
    ⟨v, -, rfl⟩ | ⟨v, -, rfl⟩ | ⟨v, -, rfl⟩ | ⟨a, b, -, rfl⟩
  · exact absurd h0 hc
  · exact absurd h0 hc
  · exact absurd h0 hc
  · exact .inl ⟨ps, rest, hin⟩
  all_goals exact .inr ⟨rfl, rfl, rfl, i, rfl⟩

/-- Settles O47: a motion's APPLY_HMOVE is refused like any command word. -/
theorem haltedBlockTakesNoCommand : Obligations.HaltedBlockTakesNoCommand := by
  intro s i rest hin hc hi
  rw [step_of_inputs hin]
  rcases hi with ⟨w, rfl⟩ | ⟨o, rfl⟩
  · exact takeCommand_of_halted (s := s.afterInput _ rest) w hc
  · exact takeMotion_of_halted _ o (s := s.afterInput _ rest) hc

/-- Settles O18: the fault entry of a SET_VALUE outside its domain, whose command word is `encode_setvOn_eq_counterWord`. -/
theorem counterSetValueOutOfDomainFaults : Obligations.CounterSetValueOutOfDomainFaults := by
  intro o v s hv
  exact ⟨_, exec_setvOn_of_ge hv, rfl, by rw [encode_setvOn_eq_counterWord]⟩

theorem resolveMode_setvOn (o : Obj) (v : Byte) : (Instr.setvOn o v).resolveMode = none := by
  cases o <;> rfl

/-- Fault entry of the command word just taken, as one update of the state before the step (60_exceptions.md R196). -/
theorem enterFault_afterInput (c : Cause) (w : Word) (s : State) (rest : List HostInput) :
    enterFault c w (s.afterInput (.command w) rest) = { s with
      inputs := rest, fault := (causeCode c).zeroExtend 8, faultInfo := w,
      trace := s.trace ++ [.input (.command w), .returned (.err c)] } := by
  simp [enterFault, State.ret, State.record, State.afterInput]

/-- A SET_VALUE outside its domain enters CounterDomain with the word the host issued (60_exceptions.md R193, R196). -/
theorem step_of_setvOn_of_ge {s : State} {w : Word} {rest : List HostInput} {o : Obj} {v : Byte}
    (hin : s.inputs = .command w :: rest) (hc : s.cause = 0) (hd : decode w = .ok (.setvOn o v))
    (hv : (s.cnt o).period.toNat ≤ v.toNat) :
    step s = .next (enterFault .counterDomain w (s.afterInput (.command w) rest)) := by
  have hready := processorReady_of_resolveMode_none s.processor (resolveMode_setvOn o v)
  rw [step_of_decode_ok hin hc hd hready, exec_setvOn, setValueCommand_of_ge (s.afterInput _ rest) o hv,
    encode_of_decode hd]

/-- Settles O44: the fault is the decoder's or SET_VALUE's own, and either is the same fault entry. -/
theorem faultingCommandEntersItsFault : Obligations.FaultingCommandEntersItsFault := by
  intro s w rest c hin hc hfault
  have hstep : step s = .next (enterFault c w (s.afterInput (.command w) rest)) := by
    rcases hfault with hd | ⟨rfl, o, v, hd, hv⟩
    · rw [step_of_decode_error hin hc hd, enterFault_afterInput]
    · exact step_of_setvOn_of_ge hin hc hd hv
  refine ⟨_, (causeCode c).zeroExtend 8, hstep, enterFault_halted _ _ _, ?_, ?_, ?_, enterFault_afterInput c w s rest⟩
  all_goals
    rintro rfl
    rfl

/-- Settles O46: a Format A word with a nonzero reserved field is in the class of IllegalCommand, whatever its MODE. -/
theorem malformedWordOutranksInvalidMode : Obligations.MalformedWordOutranksInvalidMode := by
  intro w s rest hin hc hformat hreserved
  obtain ⟨hillegal, -, -⟩ := faultingWordsAreTheReservedClasses w
  have hd : decode w = .error .illegalCommand := hillegal.2 (.inl ⟨Nat.div_eq_of_lt hformat, hreserved⟩)
  refine ⟨_, step_of_decode_error hin hc hd, rfl, rfl, ?_⟩
  rw [← enterFault_afterInput, enterFault_lastResult]

end Sys2Proof.Machine

/-! A CLOCK after the position was moved (70_reset_and_hazards.md R229), and that every command completes (R207, R230, R232). -/

namespace Sys2Proof.Machine

/-- From the first sub-clock of a position, CLOCK stays in that position: it never wraps there. -/
theorem Counter.tick_of_internal_eq {c : Counter} {v : Byte} (h : c.Inv) (hiv : c.internalValue.toNat = v.toNat * 4) :
    c.tick.internalValue.toNat = v.toNat * 4 + 1 ∧ c.tick.position = v := by
  have htick := Counter.tick_internal h
  have hpos := (Counter.position_toNat (Counter.tick_lt h)).1
  obtain ⟨-, -, -, hlt, -⟩ := h
  rw [hiv, Nat.mod_eq_of_lt (by omega)] at htick
  exact ⟨htick, BitVec.eq_of_toNat_eq (by omega)⟩

/-- CLOCK compares with last_value and not with the position before it: at the first sub-clock of a position that is not
last_value it reports a transition (41_position_counter.md R155). -/
theorem clockCommand_of_internal_eq {s : State} {o : Obj} {v : Byte} (h : (s.cnt o).Inv)
    (hiv : (s.cnt o).internalValue.toNat = v.toNat * 4) (hne : v ≠ (s.cnt o).lastValue) :
    (clockCommand o s).lastResult = some (.ok (.transition true)) ∧
      ((clockCommand o s).cnt o).internalValue.toNat = v.toNat * 4 + 1 := by
  obtain ⟨htick, hpos⟩ := Counter.tick_of_internal_eq h hiv
  have htrans : (s.cnt o).clockTrans = true := by rwa [Counter.clockTrans_iff, hpos]
  exact ⟨by rw [clockCommand, ret_lastResult, htrans], by rw [clockCommand_cnt_same, Counter.clock_internal, htick]⟩

/-- Settles O25: either move leaves the counter legal, at four times the value, with last_value as it was. -/
theorem clockAfterMoveReportsTransitionOffBoundary : Obligations.ClockAfterMoveReportsTransitionOffBoundary := by
  intro s o hinv _
  refine ⟨fun hne => ?_, fun v hv hne => ?_⟩
  · refine ⟨_, (execAll_cons (exec_resetOn s o) _).trans (by rw [execAll_singleton, exec_clockOn]), ?_⟩
    apply clockCommand_of_internal_eq <;> rw [resetCommand_cnt_same]
    exacts [Counter.reset_inv hinv, Counter.reset_internal _, hne]
  · refine ⟨_, (execAll_cons (exec_setvOn s o v) _).trans (by rw [execAll_singleton, exec_clockOn]), ?_⟩
    apply clockCommand_of_internal_eq <;> rw [setValueCommand_of_lt s o hv, ret_cnt, setCnt_cnt_same]
    exacts [Counter.setValue_inv hinv hv, Counter.setValue_internal _ v, hne]

/-- Settles O27: each of the three things a command can do, fault entry among them, answers a next state. -/
theorem everyCommandCompletes : Obligations.EveryCommandCompletes := by
  intro i s
  rcases exec_cases s i with ⟨_, _, hx⟩ | ⟨_, _, _, -, hx⟩ | ⟨_, _, -, -, hx⟩
  all_goals exact ⟨_, hx⟩

end Sys2Proof.Machine

/-! RST, and a RESOLVE before the host has written what it reads (70_reset_and_hazards.md R220, R224). -/

namespace Sys2Proof.Machine

/-- Settles O50: parameters in NEW's domain are accepted, and `blockReset` makes each instance by NEW. -/
theorem blockResetConstructsEveryInstance : Obligations.BlockResetConstructsEveryInstance := by
  intro s ps rest hin hdom
  have hwf : ps.paramsWf = true := (paramsWf_iff ps).2 fun o => (ObjParams.wf_iff _).2 (hdom o)
  refine ⟨_, by rw [step_rst hin, if_pos hwf], rfl, rfl, fun o => ?_⟩
  rw [blockReset_cnt]
  exact ⟨rfl, rfl, Counter.new_internal _, rfl, rfl⟩

/-- Settles O52: a register that is read and not written is one that `processorReady` asks for. -/
theorem resolveBeforeProcessorStateStops : Obligations.ResolveBeforeProcessorStateStops := by
  intro s w rest i m hin hc hd hm hunset
  have hready : ¬ processorReady s.processor i = true := by
    rw [processorReady_iff_of_resolveMode_some _ hm, readsX_iff_mem, readsY_iff_mem]
    rintro ⟨hpc, hx, hy⟩
    rcases hunset with h | ⟨hmx, h⟩ | ⟨hmy, h⟩
    · exact Bool.false_ne_true (h.symm.trans hpc)
    · exact Bool.false_ne_true (h.symm.trans (hx hmx))
    · exact Bool.false_ne_true (h.symm.trans (hy hmy))
  rw [step_command hin hc, hd]
  exact if_neg hready

end Sys2Proof.Machine
